-- ==== Sys2Proof/Word.lean ====
section
/-! DEFINITION. The three value widths of the block: words, bytes and the 64-bit length (00_scope.md R6, R8).

Addition modulo 2^32 (`+32`, R9, R78), the bitwise operators (R79) and the shifts are those of `BitVec`:
all values are unsigned, sums wrap and carries are discarded (10_state.md R27). -/

namespace Sys2Proof

/-- A 32-bit unsigned word (R8). -/
abbrev Word := BitVec 32

/-- An 8-bit byte (R8). -/
abbrev Byte := BitVec 8

/-- A 64-bit value: the bit-length counter and the length field (R6). -/
abbrev Word64 := BitVec 64

/-- A 64-byte block as the list of its bytes, byte 0 first (R11). Every block the core makes has 64 bytes. -/
abbrev Block := List Byte

end Sys2Proof
end

