-- ==== Sys2Proof/Syntax.lean ====
section
/-! DEFINITION. The commands: one constructor per row of spec/opcode_table.json (30_encoding.md R63). -/

namespace Sys2Proof

/-- A command word of the block, decoded (30_encoding.md R63). -/
inductive Instr where
  /-- INIT: start a new hash (43_commands.md R130). -/
  | init
  /-- BLOCK: absorb one full 64-byte chunk (43_commands.md R131). -/
  | block
  /-- FINAL n: absorb the last `n` bytes, pad, finish (43_commands.md R132). -/
  | final (n : Nat)
  deriving DecidableEq, Repr

/-- Why a command word is illegal, whatever the block's state (30_encoding.md R65). -/
inductive DecodeError where
  /-- OP is 0 or 4..7: code 1, ILLEGAL_OPCODE. -/
  | illegalOpcode
  /-- RSV0 or RSV1 nonzero, or NBYTES nonzero with INIT or BLOCK: code 2, RESERVED_BITS. -/
  | reservedBits
  deriving DecidableEq, Repr

end Sys2Proof
end

