-- ==== Sys2Proof/WellFormed.lean ====
section
/-! DEFINITION. Which commands have a word: NBYTES is a 6-bit field, so `n` is in 0..63 (30_encoding.md R62). -/

namespace Sys2Proof

/-- The command's operand fits its field (30_encoding.md R62, R63). -/
def Instr.wellFormed : Instr → Bool
  | .init => true
  | .block => true
  | .final n => decide (n < 64)

/-- `Instr.wellFormed` as a proposition. -/
abbrev Instr.WellFormed (i : Instr) : Prop := i.wellFormed = true

end Sys2Proof
end

