-- ==== Sys2Proof/Decode.lean ====
section
/-! DEFINITION. The decoder of command words and, after it, the encoder (30_encoding.md R61 to R65). -/

namespace Sys2Proof

/-- Field OP, bits 2:0 (30_encoding.md R61). -/
def fieldOp (v : Word) : BitVec 3 := v.extractLsb' 0 3

/-- Field RSV0, bits 7:3. -/
def fieldRsv0 (v : Word) : BitVec 5 := v.extractLsb' 3 5

/-- Field NBYTES, bits 13:8. -/
def fieldNbytes (v : Word) : BitVec 6 := v.extractLsb' 8 6

/-- Field RSV1, bits 31:14. -/
def fieldRsv1 (v : Word) : BitVec 18 := v.extractLsb' 14 18

/-- The operand of FINAL: `n = zext(v[13:8])`, not scaled or sign-extended (30_encoding.md R62). -/
def operandBytes (v : Word) : Nat := (fieldNbytes v).toNat

/-- The decode function, total on every word and blind to the block's state; the checks are in the order the
spec writes them (30_encoding.md R64). -/
def decode (v : Word) : Except DecodeError Instr :=
  if fieldOp v ≠ 1 ∧ fieldOp v ≠ 2 ∧ fieldOp v ≠ 3 then .error .illegalOpcode
  else if fieldRsv0 v ≠ 0 ∨ fieldRsv1 v ≠ 0 then .error .reservedBits
  else if (fieldOp v = 1 ∨ fieldOp v = 2) ∧ fieldNbytes v ≠ 0 then .error .reservedBits
  else if fieldOp v = 1 then .ok .init
  else if fieldOp v = 2 then .ok .block
  else .ok (.final (operandBytes v))

/-- The instruction the decoder reads from an instruction of `nbits` bits `w`, numbered as the opcode table numbers
them. Every command is exactly one 32-bit word (30_encoding.md R66), so a longer one is none. -/
def decodeTableWord (nbits w : Nat) : Option Instr :=
  if nbits ≤ 32 then (decode (BitVec.ofNat 32 (w % 2 ^ nbits))).toOption else none

/-- A command word from its two used fields, the reserved ones zero (30_encoding.md R61). -/
def commandWord (op : BitVec 3) (nbytes : BitVec 6) : Word :=
  (0 : BitVec 18) ++ nbytes ++ (0 : BitVec 5) ++ op

/-- The encoder: the word of a well-formed command (30_encoding.md R63). -/
def encode : Instr → Word
  | .init => commandWord 1 0
  | .block => commandWord 2 0
  | .final n => commandWord 3 (BitVec.ofNat 6 n)

/-- The bits a row of the opcode map fixes: its `mask` (30_encoding.md R63). -/
def rowMask : Instr → Word
  | .init => 0xFFFFFFFF
  | .block => 0xFFFFFFFF
  | .final _ => 0xFFFFC0FF

/-- What those bits are: the row's `match` (30_encoding.md R63). -/
def rowMatch : Instr → Word
  | .init => 0x00000001
  | .block => 0x00000002
  | .final _ => 0x00000003

end Sys2Proof
end

