-- ==== Sys2Proof/Config.lean ====
section
/-! DEFINITION. What the spec leaves open, as uninterpreted constants: free values no proof can evaluate.

The tables K and IV are configuration too (10_state.md R38); they stand in Machine/Tables.lean. BASE is an argument
of `windowOffset` (Machine/Bus.lean), LATENCY the place of the `core` entry in `State.agenda` (logs 1, 2, 10). -/

namespace Sys2Proof.Config

/-- DESIGN CHOICE (log 4): `DATA_RESET[j]` at reset draw `n`, 00_scope.md R7, 10_state.md R25, 93 U1. -/
opaque dataReset : Nat → Nat → Word

/-- DESIGN CHOICE (log 5): W[t] after reset draw `n`, unspecified and never read (10_state.md R17, 93 U7). -/
opaque scheduleReset : Nat → Nat → Word

/-- DESIGN CHOICE (log 5): working variable `i` (a is 0, h is 7) after reset draw `n`, unspecified and never
read (10_state.md R16, 93 U7). -/
opaque workingReset : Nat → Nat → Word

/-- DESIGN CHOICE (log 6): the word that free draw `n`, a read of DIGESTi, LEN_LO, LEN_HI or BLKCNT while
BUSY = 1, returns (44_bus_access.md R149, 93 U2). -/
opaque busyRead : Nat → Word

/-- The size in bytes of the register window (00_scope.md R6, 20_memory.md R42). -/
abbrev windowBytes : Nat := 0x100

end Sys2Proof.Config
end

