-- ==== Sys2Proof/Machine/State.lean ====
section
/-! DEFINITION. The state of one SHA256-CORE instance (10_state.md R14), the events around it, the ways it stops,
and reset (70_reset_and_hazards.md R181). -/

namespace Sys2Proof.Machine

/-- Whether the hash is open or finished (10_state.md R22). -/
inductive Phase where
  | absorb
  | done
  deriving DecidableEq, Repr

/-- The two commands that pend until the core completes them (10_state.md R23). -/
inductive Op where
  | block
  | final
  deriving DecidableEq, Repr

/-- Why a host access is rejected: the rows 1 to 5 of 60_exceptions.md R161. -/
inductive ErrorCause where
  | illegalOpcode
  | reservedBits
  | sequence
  | busyCmd
  | busyData
  deriving DecidableEq, Repr

/-- The working variables a..h of a compression (10_state.md R16). -/
structure Working where
  a : Word
  b : Word
  c : Word
  d : Word
  e : Word
  f : Word
  g : Word
  h : Word
  deriving DecidableEq, Repr

/-- The block's own state (10_state.md R14). -/
structure CoreState where
  /-- Digest state H[0..7] (R15). -/
  h : Vector Word 8
  /-- Working variables a..h (R16), internal. -/
  wv : Working
  /-- Message schedule W[0..63] (R17), internal. -/
  w : Vector Word 64
  /-- Bit-length counter LEN (R20). -/
  len : Word64
  /-- Block counter BLKCNT (R21). -/
  blkcnt : Word
  /-- PHASE (R22). -/
  phase : Phase
  /-- BUSY (R23). -/
  busy : Bool
  /-- PENDING (R23), internal. -/
  pending : Option (Op × Fin 64)
  /-- ERR (R24). -/
  err : Bool
  /-- ERRCODE (R24). -/
  errcode : BitVec 4
  /-- Block buffer DATA[0..15] (R25). -/
  data : Vector Word 16
  /-- Padding scratch PAD (R26), internal. -/
  pad : List Block
  deriving DecidableEq, Repr

/-- What a host access does (20_memory.md R41). -/
inductive BusOp where
  /-- BusRead: the word is returned to the host. -/
  | read
  /-- BusWrite of a word. -/
  | write (v : Word)
  deriving DecidableEq, Repr

/-- One host access: its byte offset from BASE, its width in bits, and what it does (20_memory.md R42, R45). -/
structure Access where
  off : Nat
  width : Nat
  op : BusOp
  deriving DecidableEq, Repr

/-- One event of the total order of 20_memory.md R50. -/
inductive Event where
  /-- The host's next access (R13). -/
  | access (a : Access)
  /-- The core's turn: its completion step, where BUSY = 1 (43_commands.md R133). -/
  | core
  /-- The reset input is asserted (70_reset_and_hazards.md R183). -/
  | reset
  deriving DecidableEq, Repr

/-- The machine: the block, and the plain data that says what happens next and what the host has read. The last three
fields are the model's own, not the spec's (log 7). -/
structure State where
  /-- The block's own state (R14). -/
  core : CoreState
  /-- The events still to come, the next one first (log 1). -/
  agenda : List Event
  /-- The words the host's reads returned, newest first (log 8). -/
  reads : List Word
  /-- How many free values have been drawn (logs 4, 6). -/
  draws : Nat
  deriving DecidableEq, Repr

/-- Why the machine stops. No instruction raises it. -/
inductive Fault where
  /-- Raised by the step when the host is stuck at an access of the window that is not 32 bits wide or not at a multiple of 4
  (20_memory.md R45, 93 U6), no command is in flight and no reset is to come: no agent can move. Safe: the model stops where
  a device may go on (log 9). -/
  | outsideContract
  deriving DecidableEq, Repr

/-- Why an instruction has no meaning. -/
inductive Refusal where
  /-- Raised by `exec` for an instruction not modelled yet, by its name in the opcode table. Safe. -/
  | notModelled (mnemonic : String)
  /-- Raised by `execFinal` for a term FINAL n with n above 63, which no command word encodes (30_encoding.md R62).
  Safe: the decoder never gives such a term (log 12). -/
  | illFormed
  deriving DecidableEq, Repr

/-- Working variables after reset: unspecified (10_state.md R16; log 5). -/
def Working.reset (n : Nat) : Working :=
  { a := Config.workingReset n 0, b := Config.workingReset n 1, c := Config.workingReset n 2, d := Config.workingReset n 3,
    e := Config.workingReset n 4, f := Config.workingReset n 5, g := Config.workingReset n 6, h := Config.workingReset n 7 }

/-- The block after its reset is asserted, `n` naming the draw of its unspecified values
(70_reset_and_hazards.md R181). -/
def CoreState.reset (n : Nat) : CoreState where
  h := initialDigest
  wv := Working.reset n
  w := Vector.ofFn fun t => Config.scheduleReset n t
  len := 0
  blkcnt := 0
  phase := .absorb
  busy := false
  pending := none
  err := false
  errcode := 0
  data := Vector.ofFn fun j => Config.dataReset n j
  pad := []

/-- The machine right after reset: no event waits, nothing has been read, and draw 0 is used up (logs 4, 7, 11). -/
def State.reset : State where
  core := CoreState.reset 0
  agenda := []
  reads := []
  draws := 1

end Sys2Proof.Machine
end

