-- ==== Sys2Proof/Machine/Flags.lean ====
section
/-! DEFINITION. The status bits. The datapath has no flags (10_state.md R27); STATUS is a view of BUSY, PHASE, ERR and
ERRCODE (R32). -/

namespace Sys2Proof.Machine

/-- The code recorded for a rejected access (60_exceptions.md R161). -/
def ErrorCause.code : ErrorCause → BitVec 4
  | .illegalOpcode => 1
  | .reservedBits => 2
  | .sequence => 3
  | .busyCmd => 4
  | .busyData => 5

/-- STATUS.DONE: 1 exactly when PHASE = DONE (10_state.md R32). -/
def CoreState.doneBit (c : CoreState) : Bool := decide (c.phase = .done)

/-- The STATUS value `zext_32(ERRCODE << 4 | ERR << 2 | DONE << 1 | BUSY)` (10_state.md R32, 44_bus_access.md
R147). -/
def CoreState.status (c : CoreState) : Word :=
  (c.errcode.setWidth 32 <<< 4) ||| ((BitVec.ofBool c.err).setWidth 32 <<< 2) |||
    ((BitVec.ofBool c.doneBit).setWidth 32 <<< 1) ||| (BitVec.ofBool c.busy).setWidth 32

end Sys2Proof.Machine
end

