-- ==== Sys2Proof/Machine/Datapath.lean ====
section
/-! DEFINITION. The combinational functions of the datapath (40_functions.md R76 to R86) and its one loop. -/

namespace Sys2Proof.Machine

/-- `for t in lo..lo+count-1`, in increasing order (00_scope.md R10). Irreducible, so that comparing two states never
unrolls a loop; its lemmas are in Laws/Datapath.lean. -/
@[irreducible] def forRange {α : Type} (lo count : Nat) (body : Nat → α → α) (init : α) : α :=
  (List.range' lo count).foldl (fun x t => body t x) init

/-- ROTR: 32-bit right rotation (R76). -/
def rotr (x : Word) (n : Nat) : Word := (x >>> n) ||| (x <<< (32 - n))

/-- SHR: logical right shift (R77). -/
def shr (x : Word) (n : Nat) : Word := x >>> n

/-- Ch: choose (R80). -/
def ch (e f g : Word) : Word := (e &&& f) ^^^ (~~~e &&& g)

/-- Maj: majority (R81). -/
def maj (a b c : Word) : Word := (a &&& b) ^^^ (a &&& c) ^^^ (b &&& c)

/-- Σ0, the round function of a (R82). -/
def bsig0 (a : Word) : Word := rotr a 2 ^^^ rotr a 13 ^^^ rotr a 22

/-- Σ1, the round function of e (R83). -/
def bsig1 (e : Word) : Word := rotr e 6 ^^^ rotr e 11 ^^^ rotr e 25

/-- σ0, the schedule function of W[t-15] (R84). -/
def ssig0 (x : Word) : Word := rotr x 7 ^^^ rotr x 18 ^^^ shr x 3

/-- σ1, the schedule function of W[t-2] (R85). -/
def ssig1 (x : Word) : Word := rotr x 17 ^^^ rotr x 19 ^^^ shr x 10

end Sys2Proof.Machine
end

