-- ==== Sys2Proof/Machine/Operands.lean ====
section
/-! DEFINITION. Byte order, in one place: words from bytes, bytes from words, and the bytes of DATA
(00_scope.md R8; 20_memory.md R43, R44; 10_state.md R25). -/

namespace Sys2Proof.Machine

/-- BE32: a word from four bytes, the first the most significant (00_scope.md R8). -/
def be32 (b0 b1 b2 b3 : Byte) : Word :=
  (b0.setWidth 32 <<< 24) ||| (b1.setWidth 32 <<< 16) ||| (b2.setWidth 32 <<< 8) ||| b3.setWidth 32

/-- BE64: byte k is `L[63-8k : 56-8k]`, k = 0..7 (00_scope.md R8, 42_padding_engine.md R108). -/
def be64 (l : Word64) : List Byte := (List.range 8).map fun k => l.extractLsb' (56 - 8 * k) 8

/-- Byte k of a word, the most significant first: `v[31-8k : 24-8k]`, k = 0..3 (20_memory.md R44). -/
def wordByte (v : Word) (k : Nat) : Byte := v.extractLsb' (24 - 8 * k) 8

/-- The four bytes of a word, the most significant first. -/
def wordBytes (v : Word) : List Byte := [wordByte v 0, wordByte v 1, wordByte v 2, wordByte v 3]

/-- Block byte k of the DATA buffer, k = 0..63 (10_state.md R25). -/
def dataByte (data : Vector Word 16) (k : Nat) : Byte := wordByte (data.getD (k / 4) 0) (k % 4)

/-- `[DATA byte 0, ..., DATA byte n-1]` (42_padding_engine.md R113; n = 64 for BLOCK, 43_commands.md R131). -/
def dataBytes (data : Vector Word 16) (n : Nat) : List Byte := (List.range n).map (dataByte data)

end Sys2Proof.Machine
end

