-- ==== Sys2Proof/Machine/Pipeline.lean ====
section
/-! DEFINITION. The block pipeline: word packer, message scheduler, compression round, block accumulator, first as
functions of their operands, then as what the core does to its own state (41_block_pipeline.md R91 to R98). -/

namespace Sys2Proof.Machine

/-- Word t of a block (R91). -/
def packWord (b : Block) (t : Nat) : Word :=
  be32 (b.getD (4 * t) 0) (b.getD (4 * t + 1) 0) (b.getD (4 * t + 2) 0) (b.getD (4 * t + 3) 0)

/-- The Word Packer: writes W[0..15] (R91). -/
def packInto (b : Block) (w : Vector Word 64) : Vector Word 64 :=
  forRange 0 16 (fun t w => w.setIfInBounds t (packWord b t)) w

/-- The sum the scheduler stores in W[t] (R92). -/
def scheduleWord (w : Vector Word 64) (t : Nat) : Word :=
  w.getD (t - 16) 0 + ssig0 (w.getD (t - 15) 0) + w.getD (t - 7) 0 + ssig1 (w.getD (t - 2) 0)

/-- The Message Scheduler: writes W[16..63] in increasing t (R92). -/
def scheduleInto (w : Vector Word 64) : Vector Word 64 :=
  forRange 16 48 (fun t w => w.setIfInBounds t (scheduleWord w t)) w

/-- Load working variables (R94). -/
def loadWorking (h : Vector Word 8) : Working :=
  { a := h.getD 0 0, b := h.getD 1 0, c := h.getD 2 0, d := h.getD 3 0,
    e := h.getD 4 0, f := h.getD 5 0, g := h.getD 6 0, h := h.getD 7 0 }

/-- T1 of a round (R95). -/
def roundT1 (w : Vector Word 64) (t : Nat) (v : Working) : Word :=
  v.h + bsig1 v.e + ch v.e v.f v.g + roundConstant t + w.getD t 0

/-- T2 of a round (R95). -/
def roundT2 (v : Working) : Word := bsig0 v.a + maj v.a v.b v.c

/-- Round t: the eight assignments are simultaneous (R95). -/
def roundOnce (w : Vector Word 64) (t : Nat) (v : Working) : Working :=
  { a := roundT1 w t v + roundT2 v, b := v.a, c := v.b, d := v.c,
    e := v.d + roundT1 w t v, f := v.e, g := v.f, h := v.g }

/-- The 64 rounds, in increasing t, one for each word of the schedule (R96). The count is written as the length of `w`
so that no loop unrolls over a `w` that is a variable. -/
def roundAll (w : Vector Word 64) (v : Working) : Working := forRange 0 w.toList.length (roundOnce w) v

/-- The Block Accumulator (R97). -/
def accumulateInto (h : Vector Word 8) (v : Working) : Vector Word 8 :=
  #v[h.getD 0 0 + v.a, h.getD 1 0 + v.b, h.getD 2 0 + v.c, h.getD 3 0 + v.d,
     h.getD 4 0 + v.e, h.getD 5 0 + v.f, h.getD 6 0 + v.g, h.getD 7 0 + v.h]

/-- The schedule of a block, whatever W held before: it depends only on the block (R93). -/
def scheduleOf (b : Block) : Vector Word 64 := scheduleInto (packInto b (Vector.replicate 64 0))

/-- COMPRESS as a pure function of the digest state and the block (R98). -/
def compress (h : Vector Word 8) (b : Block) : Vector Word 8 :=
  accumulateInto h (roundAll (scheduleOf b) (loadWorking h))

/-- PACK: the core writes W[0..15] (R91). -/
def CoreState.pack (b : Block) (c : CoreState) : CoreState := { c with w := packInto b c.w }

/-- SCHEDULE: the core writes W[16..63] (R92). -/
def CoreState.schedule (c : CoreState) : CoreState := { c with w := scheduleInto c.w }

/-- INIT_VARS: the core writes a..h (R94). -/
def CoreState.initVars (c : CoreState) : CoreState := { c with wv := loadWorking c.h }

/-- ROUND 0 to ROUND 63: the core writes a..h (R95, R96). -/
def CoreState.rounds (c : CoreState) : CoreState := { c with wv := roundAll c.w c.wv }

/-- ACCUMULATE: the core writes H (R97). -/
def CoreState.accumulate (c : CoreState) : CoreState := { c with h := accumulateInto c.h c.wv }

/-- The compression the core runs on its own W, a..h and H, in the order of R98. -/
def CoreState.compressBlock (b : Block) (c : CoreState) : CoreState :=
  (c.pack b).schedule.initVars.rounds.accumulate

/-- One compression and its count: `H <- COMPRESS(H, P); BLKCNT <- BLKCNT +32 1` (42_padding_engine.md R113,
43_commands.md R131; 10_state.md R21). -/
def CoreState.absorbBlock (b : Block) (c : CoreState) : CoreState :=
  { c.compressBlock b with blkcnt := c.blkcnt + 1 }

end Sys2Proof.Machine
end

