-- ==== Sys2Proof/Machine/Padding.lean ====
section
/-! DEFINITION. The padding engine: the length counter and the blocks of a final chunk (42_padding_engine.md R106 to
R115). -/

namespace Sys2Proof.Machine

/-- LEN after `n` more bytes, modulo 2^64 (R113; 10_state.md R20). -/
def lenAfter (len : Word64) (n : Nat) : Word64 := len + BitVec.ofNat 64 (8 * n)

/-- Zero bytes. -/
def zeroBytes (k : Nat) : List Byte := List.replicate k 0

/-- Whether the length field fits in the block of the marker: `64 - (n + 1) >= 8`, that is n <= 55 (R114). -/
def lengthFits (n : Nat) : Bool := decide (n ≤ 55)

/-- The first padding block before a length field: the chunk, 0x80, zeros up to 64 bytes (R113's P1). -/
def markedBlock (chunk : List Byte) : Block := chunk ++ [0x80] ++ zeroBytes (63 - chunk.length)

/-- The one or two blocks PADFINAL makes of the final chunk and the new length (R113). -/
def padBlocks (chunk : List Byte) (len' : Word64) : List Block :=
  if lengthFits chunk.length then [(markedBlock chunk).take 56 ++ be64 len']
  else [markedBlock chunk, zeroBytes 56 ++ be64 len']

/-- PADFINAL(n): builds PAD, compresses each of its blocks in order, counts it, updates LEN, discards PAD
(R113; 10_state.md R26). -/
def CoreState.padFinal (n : Nat) (c : CoreState) : CoreState :=
  let len' := lenAfter c.len n
  let c1 := { c with pad := padBlocks (dataBytes c.data n) len' }
  let c2 := c1.pad.foldl (fun c p => c.absorbBlock p) c1
  { c2 with len := len', pad := [] }

end Sys2Proof.Machine
end

