-- ==== Sys2Proof/Machine/Ops.lean ====
section
/-! DEFINITION. The named operations over the block's registers: reading one, writing DATA, recording an error, accepting
a command, starting a hash, and reset. -/

namespace Sys2Proof.Machine

/-- `record_error(code)`, the block's only exception primitive: the first error is kept (43_commands.md R129;
60_exceptions.md R164: no trap, no saved state, no vector). There is no return from it (R165). -/
def CoreState.recordError (e : ErrorCause) (c : CoreState) : CoreState :=
  { c with err := true, errcode := if c.err then c.errcode else e.code }

/-- Acceptance of BLOCK or FINAL: only PENDING and BUSY are written (43_commands.md R128). -/
def CoreState.accept (op : Op) (n : Fin 64) (c : CoreState) : CoreState :=
  { c with pending := some (op, n), busy := true }

/-- What an accepted INIT does (43_commands.md R130). -/
def CoreState.startHash (c : CoreState) : CoreState :=
  { c with h := initialDigest, len := 0, blkcnt := 0, phase := .absorb, err := false, errcode := 0 }

/-- `DATA[j] <- v` (44_bus_access.md R150). -/
def CoreState.setData (j : Nat) (v : Word) (c : CoreState) : CoreState :=
  { c with data := c.data.setIfInBounds j v }

/-- The DATA register an offset names, or none (10_state.md R30). -/
def dataIndex (off : Nat) : Option Nat :=
  if 0x40 ≤ off ∧ off < 0x80 then some ((off - 0x40) / 4) else none

/-- The DIGEST register an offset names, or none (10_state.md R30). -/
def digestIndex (off : Nat) : Option Nat :=
  if 0x20 ≤ off ∧ off < 0x40 then some ((off - 0x20) / 4) else none

/-- What a register reads as, apart from the hazard of R149 (44_bus_access.md R146): every other offset of the window
reads 0. -/
def CoreState.readRegister (off : Nat) (c : CoreState) : Word :=
  if off = 0x04 then c.status
  else if off = 0x08 then c.len.extractLsb' 0 32
  else if off = 0x0C then c.len.extractLsb' 32 32
  else if off = 0x10 then c.blkcnt
  else match digestIndex off with
    | some i => c.h.getD i 0
    | none =>
      match dataIndex off with
      | some j => c.data.getD j 0
      | none => 0

/-- The registers whose value is unspecified while BUSY = 1: LEN_LO, LEN_HI, BLKCNT and DIGESTi (44_bus_access.md
R149). -/
def busyHazard (off : Nat) : Bool :=
  decide (off = 0x08) || decide (off = 0x0C) || decide (off = 0x10) || (digestIndex off).isSome

/-- The state with its block changed by `f`. -/
def State.mapCore (f : CoreState → CoreState) (s : State) : State := { s with core := f s.core }

/-- A rejected access: the error is recorded and nothing else changes (43_commands.md R129). -/
def State.reject (e : ErrorCause) (s : State) : State := s.mapCore (CoreState.recordError e)

/-- A read that returns the word `v` to the host; it writes no state of the block (44_bus_access.md R146; log 8). -/
def State.answer (v : Word) (s : State) : State := { s with reads := v :: s.reads }

/-- One free value is used up (logs 4, 6). -/
def State.drawn (s : State) : State := { s with draws := s.draws + 1 }

/-- The reset input is asserted: the whole block takes its reset values, also while BUSY = 1
(70_reset_and_hazards.md R181, R182). -/
def State.assertReset (s : State) : State := ({ s with core := CoreState.reset s.draws } : State).drawn

end Sys2Proof.Machine
end

