-- ==== Sys2Proof/Machine/Commands.lean ====
section
/-! DEFINITION. The meanings of the three commands, and the core's completion of the two that pend (43_commands.md R126 to
R133). -/

namespace Sys2Proof.Machine

/-- The state checks and the acceptance that BLOCK and FINAL share: BUSY_CMD first, then SEQUENCE, then PENDING and
BUSY (43_commands.md R126 to R128). -/
def issuePending (op : Op) (n : Fin 64) (s : State) : Host.Outcome State Fault Refusal :=
  if s.core.busy then .next (s.reject .busyCmd)
  else match s.core.phase with
    | .done => .next (s.reject .sequence)
    | .absorb => .next (s.mapCore (CoreState.accept op n))

/-- INIT: start a new hash, within the write that issues it, unless a command is in flight (43_commands.md R130). -/
def execInit (s : State) : Host.Outcome State Fault Refusal :=
  if s.core.busy then .next (s.reject .busyCmd) else .next (s.mapCore CoreState.startHash)

/-- BLOCK: issued here (43_commands.md R128), its effect is at the completion step, `CoreState.completeBlock`
(R131, R133). -/
def execBlock (s : State) : Host.Outcome State Fault Refusal := issuePending .block 0 s

/-- FINAL n: issued here (43_commands.md R128), its effect is at the completion step, `CoreState.completeFinal`
(R132, R133). No word encodes an `n` above 63 (log 12). -/
def execFinal (n : Nat) (s : State) : Host.Outcome State Fault Refusal :=
  if hn : n < 64 then issuePending .final ⟨n, hn⟩ s else .refused .illFormed

/-- The effect of BLOCK: absorb DATA bytes 0..63 as one block (43_commands.md R131). -/
def CoreState.completeBlock (c : CoreState) : CoreState :=
  { c.absorbBlock (dataBytes c.data 64) with len := c.len + 512 }

/-- The effect of FINAL n: absorb and pad the final chunk, and finish the hash (43_commands.md R132). -/
def CoreState.completeFinal (n : Fin 64) (c : CoreState) : CoreState :=
  { c.padFinal n with phase := .done }

/-- `BUSY <- 0; PENDING <- none` (43_commands.md R133). -/
def CoreState.retire (c : CoreState) : CoreState := { c with busy := false, pending := none }

/-- The completion step, where BUSY = 1 (43_commands.md R133). BUSY = 1 with no PENDING is unreachable
(10_state.md R23; log 3). -/
def CoreState.complete (c : CoreState) : CoreState :=
  match c.pending with
  | some (.block, _) => c.completeBlock.retire
  | some (.final, n) => (c.completeFinal n).retire
  | none => c.retire

/-- The core's turn: the completion step is enabled exactly when BUSY = 1 (43_commands.md R133); otherwise the block
holds its state (60_exceptions.md R174; log 3). -/
def CoreState.turn (c : CoreState) : CoreState := if c.busy then c.complete else c

end Sys2Proof.Machine
end

