-- ==== Sys2Proof/Machine/Bus.lean ====
section
/-! DEFINITION. Host access to the register window, which event is next, and what each event does (44_bus_access.md R146 to R152,
43_commands.md R126, 20_memory.md R42, R45, R50). -/

namespace Sys2Proof.Machine

/-- The recorded cause of an illegal command word (30_encoding.md R65). -/
def causeOf : DecodeError → ErrorCause
  | .illegalOpcode => .illegalOpcode
  | .reservedBits => .reservedBits

/-- A write to CMD: the acceptance procedure. While BUSY = 1 the word is not decoded (43_commands.md R126, R127). -/
def State.issueCommand (v : Word) (s : State) : Host.Outcome State Fault Refusal :=
  if s.core.busy then .next (s.reject .busyCmd)
  else match decode v with
    | .error e => .next (s.reject (causeOf e))
    | .ok i => exec i s

/-- A write to DATAj (44_bus_access.md R150). -/
def State.writeData (j : Nat) (v : Word) (s : State) : State :=
  if s.core.busy then s.reject .busyData else s.mapCore (CoreState.setData j v)

/-- BusWrite(off, v) inside the window: CMD, DATAj, and every other offset ignored (44_bus_access.md R150 to R152). -/
def State.busWrite (off : Nat) (v : Word) (s : State) : Host.Outcome State Fault Refusal :=
  if off = 0x00 then s.issueCommand v
  else match dataIndex off with
    | some j => .next (s.writeData j v)
    | none => .next s

/-- BusRead(off) inside the window: the register's value, or a fresh free word where the value is unspecified
(44_bus_access.md R146, R149; log 6). -/
def State.busRead (off : Nat) (s : State) : State :=
  if s.core.busy && busyHazard off then (s.answer (Config.busyRead s.draws)).drawn
  else s.answer (s.core.readRegister off)

/-- The access is 32 bits wide at a multiple of 4 (20_memory.md R45). -/
def Access.inContract (a : Access) : Bool := decide (a.width = 32) && decide (a.off % 4 = 0)

/-- The access is inside the register window (20_memory.md R42). -/
def Access.inWindow (a : Access) : Bool := decide (a.off < Config.windowBytes)

/-- The access has no step: it is to the window and not 32 bits wide at a multiple of 4. The host agent is stuck at it
(20_memory.md R45). -/
def Access.stuck (a : Access) : Bool := a.inWindow && !a.inContract

/-- The event is an access that has no step. -/
def Event.stuck : Event → Bool
  | .access a => a.stuck
  | .core => false
  | .reset => false

/-- The event is the host's; the core's turns and the reset are not (10_state.md R13, 70_reset_and_hazards.md R183). -/
def Event.fromHost : Event → Bool
  | .access _ => true
  | .core => false
  | .reset => false

/-- The event that happens next, and the agenda after it; none where no agent can move. With no event waiting the core moves
(log 1). A host stuck at the head of the agenda stays there and makes no further access; the core and the reset, which are
not the host, go on (20_memory.md R45, 43_commands.md R134; log 9). -/
def State.upcoming (s : State) : Option (Event × List Event) :=
  match s.agenda with
  | [] => some (.core, [])
  | e :: rest =>
    if e.stuck then
      match rest.filter (fun x => !x.fromHost) with
      | x :: more => some (x, e :: more)
      | [] => if s.core.busy then some (.core, [e]) else none
    else some (e, rest)

/-- One host access (20_memory.md R41, R45; log 9). One outside the window is no access to this block (R42; log 10). -/
def State.access (a : Access) (s : State) : Host.Outcome State Fault Refusal :=
  if !a.inWindow then .next s
  else if !a.inContract then .fault .outsideContract
  else match a.op with
    | .read => .next (s.busRead a.off)
    | .write v => s.busWrite a.off v

/-- One event (20_memory.md R50). -/
def State.perform (e : Event) (s : State) : Host.Outcome State Fault Refusal :=
  match e with
  | .access a => s.access a
  | .core => .next (s.mapCore CoreState.turn)
  | .reset => .next s.assertReset

/-- Address decode: the offset of byte address `addr` in the window at `base` (20_memory.md R42; log 10). -/
def windowOffset (base addr : Nat) : Option Nat :=
  if base ≤ addr ∧ addr < base + Config.windowBytes then some (addr - base) else none

/-- BASE is a multiple of 0x100 (20_memory.md R42). -/
def validBase (base : Nat) : Bool := decide (base % Config.windowBytes = 0)

/-- The host issues an access at byte address `addr` to the block whose window is at `base`: it joins the agenda when
the address is in the window, and is otherwise no access to this block (20_memory.md R42). -/
def State.issue (base addr width : Nat) (op : BusOp) (s : State) : State :=
  match windowOffset base addr with
  | some off => { s with agenda := s.agenda ++ [.access { off := off, width := width, op := op }] }
  | none => s

/-- WR off, v of the host-program notation (30_encoding.md R67). -/
def wr (off : Nat) (v : Word) : Event := .access { off := off, width := 32, op := .write v }

/-- RD off of the host-program notation (30_encoding.md R67). -/
def rd (off : Nat) : Event := .access { off := off, width := 32, op := .read }

end Sys2Proof.Machine
end

