-- ==== Sys2Proof/Machine/Step.lean ====
section
/-! DEFINITION. One step of the machine: the event that happens next. -/

namespace Sys2Proof.Machine

/-- One step. The total order of events is the agenda (20_memory.md R50); with the host silent or stuck the core takes its
turn, so that every accepted command completes (43_commands.md R134) and an idle block holds its state
(60_exceptions.md R174; logs 1, 9). -/
def step (s : State) : Host.Outcome State Fault Refusal :=
  match s.upcoming with
  | some (e, rest) => ({ s with agenda := rest } : State).perform e
  | none => .fault .outsideContract

/-- The host writes the command word `w` to CMD next: the place a command comes from on this hardware
(44_bus_access.md R151; log 11). -/
def State.withFetchWord (s : State) (nbits w : Nat) : State :=
  { s with agenda := wr 0x00 (BitVec.ofNat 32 (w % 2 ^ nbits)) :: s.agenda }

end Sys2Proof.Machine
end

