-- ==== Sys2Proof/Machine/Reference.lean ====
section
/-! DEFINITION. The reference form of the hash: padding of a whole message, SHA256(M), and the digest as bytes and as
text (42_padding_engine.md R106 to R117, 44_bus_access.md R154, R155). The step never calls these. -/

namespace Sys2Proof.Machine

/-- LBITS(M): the bit length modulo 2^64 (42_padding_engine.md R107). -/
def bitLength (m : List Byte) : Word64 := BitVec.ofNat 64 (8 * m.length)

/-- PAD(M): the message, 0x80, the least number of zeros, the length (42_padding_engine.md R109). -/
def padMessage (m : List Byte) : List Byte :=
  m ++ [0x80] ++ zeroBytes ((55 + 64 - m.length % 64) % 64) ++ be64 (bitLength m)

/-- NB(L): how many blocks PAD of L bytes makes (42_padding_engine.md R110). -/
def blockCount (l : Nat) : Nat := l / 64 + if l % 64 ≤ 55 then 1 else 2

/-- The first `k` 64-byte blocks of a byte sequence. -/
def blocksOf : Nat → List Byte → List Block
  | 0, _ => []
  | k + 1, bs => bs.take 64 :: blocksOf k (bs.drop 64)

/-- SHA256(M): COMPRESS folded over the blocks of PAD(M) from IV (42_padding_engine.md R117). -/
def sha256 (m : List Byte) : Vector Word 8 :=
  (blocksOf (blockCount m.length) (padMessage m)).foldl compress initialDigest

/-- The 32 bytes of a digest, DIGEST0 first, each word most significant byte first (44_bus_access.md R154). -/
def digestBytes (h : Vector Word 8) : List Byte := h.toList.flatMap wordBytes

/-- The 8 lowercase hexadecimal digits of a word, leading zeros kept (44_bus_access.md R155). -/
def hex8 (v : Word) : List Char :=
  (List.range 8).map fun k => Nat.digitChar (v.extractLsb' (28 - 4 * k) 4).toNat

/-- The 64 characters of a digest (44_bus_access.md R155). -/
def renderDigest (h : Vector Word 8) : List Char := h.toList.flatMap hex8

end Sys2Proof.Machine
end

