-- ==== Sys2Proof/Machine/Driver.lean ====
section
/-! DEFINITION. The host-program notation: which events a host's line stands for (30_encoding.md R67, R68;
42_padding_engine.md R118). The step never calls these. -/

namespace Sys2Proof.Machine

/-- INIT, BLOCK or FINAL n: the write of its word to CMD (30_encoding.md R67). -/
def cmd (i : Instr) : Event := wr 0x00 (encode i)

/-- LOADW j, w (30_encoding.md R67). -/
def loadW (j : Nat) (v : Word) : Event := wr (0x40 + 4 * j) v

/-- LOADBLK: the 16 words of a chunk into DATA0..DATA15 (30_encoding.md R67, 44_bus_access.md R153). -/
def loadBlk (chunk : Block) : List Event := (List.range 16).map fun j => loadW j (packWord chunk j)

/-- POLL where the core completes after `k` reads of STATUS: `k` reads that see BUSY, the core step, and the read that
does not (30_encoding.md R67; `k` stands for LATENCY, 00_scope.md R7; log 2). -/
def poll (k : Nat) : List Event := List.replicate k (rd 0x04) ++ [.core, rd 0x04]

/-- RDDIGEST: DIGEST0 to DIGEST7 (30_encoding.md R67). -/
def rdDigest : List Event := (List.range 8).map fun i => rd (0x20 + 4 * i)

/-- The part of HASH M for one full chunk: LOADBLK, BLOCK, POLL (30_encoding.md R68). -/
def blockEvents (k : Nat) (chunk : Block) : List Event := loadBlk chunk ++ [cmd .block] ++ poll k

/-- The parts of HASH M for `q` full chunks, chunk i polled `lat i` times before it completes. -/
def chunkEvents (lat : Nat → Nat) : Nat → List Byte → List Event
  | 0, _ => []
  | q + 1, m => blockEvents (lat q) (m.take 64) ++ chunkEvents lat q (m.drop 64)

/-- The part of HASH M for the last bytes, `tail` with any bytes `fill` after them: LOADBLK, FINAL r, POLL, RDDIGEST
(30_encoding.md R68). -/
def finalEvents (k : Nat) (tail fill : List Byte) : List Event :=
  loadBlk (tail ++ fill) ++ [cmd (.final tail.length)] ++ poll k ++ rdDigest

/-- HASH M (30_encoding.md R68): INIT, each full chunk, the last bytes, the digest. -/
def hashEvents (lat : Nat → Nat) (k : Nat) (fill m : List Byte) : List Event :=
  cmd .init :: (chunkEvents lat (m.length / 64) m ++ finalEvents k (m.drop (64 * (m.length / 64))) fill)

end Sys2Proof.Machine
end

