-- ==== Sys2Proof/Safety.lean ====
section
/-! DEFINITION. What claims call a good state and a safe run. -/

namespace Sys2Proof.Machine

/-- What the spec says holds of the block in every state between two events. -/
structure CoreState.Inv (c : CoreState) : Prop where
  /-- `BUSY = 1` exactly when PENDING is not none (10_state.md R23). -/
  busy_iff_pending : c.busy = c.pending.isSome
  /-- BLOCK pends with n = 0 (43_commands.md R126). -/
  block_pends_zero : ∀ n, c.pending = some (.block, n) → n = 0
  /-- `ERR = 0` exactly when `ERRCODE = 0` (10_state.md R24). -/
  err_iff_code : c.err = false ↔ c.errcode = 0
  /-- Codes 6..15 are never produced (60_exceptions.md R161, 93 U9). -/
  code_le_five : c.errcode.toNat ≤ 5
  /-- A command in flight was accepted in phase ABSORB, and only its completion leaves it (43_commands.md R126). -/
  busy_absorb : c.busy = true → c.phase = .absorb
  /-- PAD is discarded at the end of a FINAL (10_state.md R26). -/
  pad_empty : c.pad = []
  /-- LEN moves in steps of 8 bits (92_eei_decisions.md D27). -/
  len_whole_bytes : 8 ∣ c.len.toNat

/-- The invariant of the machine. -/
def State.Inv (s : State) : Prop := s.core.Inv

/-- The access is one the block admits (20_memory.md R42, R45). -/
def Access.admitted (a : Access) : Bool := a.inContract && a.inWindow

/-- The machine takes `k` steps from `s` without a stop and is then in `t`. -/
def Reaches (k : Nat) (s t : State) : Prop := Host.Core.run Sys2Proof.core k s = .next t

end Sys2Proof.Machine
end

