-- ==== Sys2Proof/Certificates/Slice0/Obligations.lean ====
section
/-! DEFINITION. The statements for the provers, file by file of spec/. Each docstring names the rules it formalises, and
says so where a clause is the model's own choice. -/

open Sys2Proof Sys2Proof.Machine

/-! ### Words the statements use -/

/-- OP of a command word, as a number (10_state.md R31). -/
def Sys2Proof.Claims.opOf (v : Word) : Nat := v.toNat % 8

/-- RSV0, as a number. -/
def Sys2Proof.Claims.rsv0Of (v : Word) : Nat := v.toNat / 8 % 32

/-- NBYTES, as a number. -/
def Sys2Proof.Claims.nbytesOf (v : Word) : Nat := v.toNat / 256 % 64

/-- RSV1, as a number. -/
def Sys2Proof.Claims.rsv1Of (v : Word) : Nat := v.toNat / 16384

/-- The 66 legal command words (30_encoding.md R63). -/
def Sys2Proof.Claims.legalWords : List Word :=
  ([0x00000001, 0x00000002] : List Word) ++ (List.range 64).map fun n => 0x00000003 ||| (BitVec.ofNat 32 n <<< 8)

/-- The core moves next (`WhoMovesNext` says when). -/
def Sys2Proof.Claims.CoreNext (s : State) : Prop := ∃ rest, s.upcoming = some (.core, rest)

/-- The next event is an accepted INIT: the host writes its word to CMD while BUSY = 0. -/
def Sys2Proof.Claims.InitNext (s : State) : Prop := (∃ rest, s.agenda = wr 0x00 0x00000001 :: rest) ∧ s.core.busy = false

/-- The reset is asserted next (`WhoMovesNext` says when). -/
def Sys2Proof.Claims.ResetNext (s : State) : Prop := ∃ rest, s.upcoming = some (.reset, rest)

/-- The host is stuck at the access: it is to the window and of another width or alignment than 20_memory.md R45 admits. -/
def Sys2Proof.Claims.HostStuckAt (a : Access) : Prop := a.off < 0x100 ∧ (a.width ≠ 32 ∨ a.off % 4 ≠ 0)

/-- The state after an access is rejected with `code`: only ERR and ERRCODE may differ, the first code is kept, and the
event is used up (43_commands.md R129). -/
def Sys2Proof.Claims.rejected (code : BitVec 4) (rest : List Event) (s : State) : State :=
  { s with agenda := rest,
           core := { s.core with err := true, errcode := if s.core.err = true then s.core.errcode else code } }

/-- The block as the table of 70_reset_and_hazards.md R181 leaves it: the unspecified elements are W, a..h and DATA. -/
def Sys2Proof.Claims.AfterReset (c : CoreState) : Prop :=
  c = { c with h := #v[0x6a09e667, 0xbb67ae85, 0x3c6ef372, 0xa54ff53a, 0x510e527f, 0x9b05688c, 0x1f83d9ab, 0x5be0cd19],
               len := 0, blkcnt := 0, phase := .absorb, busy := false, pending := none, err := false, errcode := 0, pad := [] }

/-- Block byte k of DATA, written out (10_state.md R25). -/
def Sys2Proof.Claims.bufferByte (data : Vector Word 16) (k : Nat) : Byte :=
  BitVec.ofNat 8 ((data.getD (k / 4) 0).toNat / 2 ^ (8 * (3 - k % 4)))

/-- The first `n` bytes of DATA. -/
def Sys2Proof.Claims.bufferBytes (data : Vector Word 16) (n : Nat) : List Byte :=
  (List.range n).map (Sys2Proof.Claims.bufferByte data)

/-- The eight bytes of a length, most significant first, written out (42_padding_engine.md R108). -/
def Sys2Proof.Claims.lengthBytes (l : Word64) : List Byte :=
  (List.range 8).map fun k => BitVec.ofNat 8 (l.toNat / 2 ^ (8 * (7 - k)))

/-- The blocks of a final chunk, written out: P1 alone with the length in it, or P1 and P2 (42_padding_engine.md
R113). -/
def Sys2Proof.Claims.finalBlocks (chunk : List Byte) (len' : Word64) : List Block :=
  if chunk.length ≤ 55 then
    [chunk ++ [0x80] ++ List.replicate (55 - chunk.length) 0 ++ Sys2Proof.Claims.lengthBytes len']
  else
    [chunk ++ [0x80] ++ List.replicate (63 - chunk.length) 0,
     List.replicate 56 0 ++ Sys2Proof.Claims.lengthBytes len']

/-- The bytes 0x00, 0x01, ..., 0x3F (95_test_vectors.md T-PIPE-1). -/
def Sys2Proof.Claims.countingBlock : Block := (List.range 64).map (BitVec.ofNat 8)

/-- The padded block of "abc" (41_block_pipeline.md R100). -/
def Sys2Proof.Claims.abcBlock : Block := [0x61, 0x62, 0x63, 0x80] ++ List.replicate 59 0 ++ [0x18]

open Sys2Proof.Claims

/-! ### Encoding (30_encoding.md) -/

/-- Decoding the word of any well-formed command gives it back, and a word that decodes is the word of its command: no bit
of an encoding is dropped and each legal word has one meaning (R63, R64). -/
def Obligations.EncodeAndDecodeAgree : Prop :=
  (∀ i : Instr, i.WellFormed → decode (encode i) = .ok i) ∧
  (∀ (v : Word) (i : Instr), decode v = .ok i → i.WellFormed ∧ encode i = v)

/-- R63, whole: the three rows with their match and mask, the operand n = v[13:8], and the 66 legal words among all
2^32. -/
def Obligations.OpcodeMapIsComplete : Prop :=
  (∀ v : Word, decode v = .ok .init ↔ v &&& 0xFFFFFFFF = 0x00000001) ∧
  (∀ v : Word, decode v = .ok .block ↔ v &&& 0xFFFFFFFF = 0x00000002) ∧
  (∀ (v : Word) (n : Nat), decode v = .ok (.final n) ↔ v &&& 0xFFFFC0FF = 0x00000003 ∧ n = nbytesOf v) ∧
  legalWords.length = 66 ∧ legalWords.Nodup ∧ (∀ v : Word, (∃ i, decode v = .ok i) ↔ v ∈ legalWords)

/-- R64, whole: the checks in the order written, on the fields as numbers, and the worked examples. -/
def Obligations.DecodeFollowsItsChecks : Prop :=
  (∀ v : Word, decode v =
    if opOf v ≠ 1 ∧ opOf v ≠ 2 ∧ opOf v ≠ 3 then .error .illegalOpcode
    else if rsv0Of v ≠ 0 ∨ rsv1Of v ≠ 0 then .error .reservedBits
    else if (opOf v = 1 ∨ opOf v = 2) ∧ nbytesOf v ≠ 0 then .error .reservedBits
    else if opOf v = 1 then .ok .init
    else if opOf v = 2 then .ok .block
    else .ok (.final (nbytesOf v))) ∧
  decode 0x00000303 = .ok (.final 3) ∧ decode 0x00000102 = .error .reservedBits ∧
  decode 0x00000000 = .error .illegalOpcode ∧ decode 0x00004003 = .error .reservedBits

/-- Words of 95_test_vectors.md T-DEC, written out bit by bit. -/
def Obligations.KnownWordsDecode : Prop :=
  decode 0b00000000000000000000000000000001 = .ok .init ∧
  decode 0b00000000000000000000000000000010 = .ok .block ∧
  decode 0b00000000000000000000000000000011 = .ok (.final 0) ∧
  decode 0b00000000000000000011100000000011 = .ok (.final 56) ∧
  decode 0b00000000000000000011111100000011 = .ok (.final 63) ∧
  decode 0b00000000000000000000000000001001 = .error .reservedBits ∧
  decode 0b00000000000000001111111100000011 = .error .reservedBits ∧
  decode 0b11111111111111111111111111111111 = .error .illegalOpcode

/-- R65, whole: an illegal word written to CMD (while BUSY = 0) records its code, 1 for its OP and otherwise 2, and has no
other effect. -/
def Obligations.IllegalWordRecordsItsCode : Prop :=
  ∀ (s : State) (rest : List Event) (v : Word), s.core.busy = false →
    ((opOf v = 0 ∨ 4 ≤ opOf v) →
      step { s with agenda := wr 0x00 v :: rest } = .next (rejected 1 rest s)) ∧
    ((1 ≤ opOf v ∧ opOf v ≤ 3) →
      (rsv0Of v ≠ 0 ∨ rsv1Of v ≠ 0 ∨ (opOf v ≤ 2 ∧ nbytesOf v ≠ 0)) →
      step { s with agenda := wr 0x00 v :: rest } = .next (rejected 2 rest s))

/-! ### Datapath functions (40_functions.md) -/

/-- R76, whole: ROTR is the two shifts ORed, bit i is bit (i + n) mod 32, no bit is lost, and its corner cases. -/
def Obligations.RotrMovesEachBit : Prop :=
  (∀ (x : Word) (n : Nat), rotr x n = (x >>> n) ||| (x <<< (32 - n))) ∧
  (∀ (x : Word) (n i : Nat), 1 ≤ n → n ≤ 31 → i < 32 → (rotr x n).getLsbD i = x.getLsbD ((i + n) % 32)) ∧
  (∀ (x y : Word) (n : Nat), 1 ≤ n → n ≤ 31 → rotr x n = rotr y n → x = y) ∧
  (∀ n : Nat, 1 ≤ n → n ≤ 31 → rotr 0 n = 0 ∧ rotr 0xFFFFFFFF n = 0xFFFFFFFF) ∧
  (∀ x : Word, rotr x 0 = x) ∧
  rotr 0x00000001 1 = 0x80000000 ∧ rotr 0x12345678 8 = 0x78123456 ∧ rotr 0x80000000 7 = 0x01000000

/-- R77, whole: SHR fills with zeros at the top, whatever bit 31 is, and its examples. -/
def Obligations.ShrFillsWithZeros : Prop :=
  (∀ (x : Word) (n i : Nat), i < 32 → (shr x n).getLsbD i = if i + n < 32 then x.getLsbD (i + n) else false) ∧
  shr 0x80000000 10 = 0x00200000 ∧ shr 0xF0000000 3 = 0x1E000000 ∧ shr 0x12345678 8 = 0x00123456 ∧
  shr 0x00000001 3 = 0x00000000

/-- R80 and R81, whole: Ch chooses bit by bit, Maj takes the majority bit by bit, and their corner cases. -/
def Obligations.ChChoosesAndMajVotes : Prop :=
  (∀ (e f g : Word) (i : Nat), i < 32 →
    (ch e f g).getLsbD i = if e.getLsbD i = true then f.getLsbD i else g.getLsbD i) ∧
  (∀ (a b c : Word) (i : Nat), i < 32 →
    ((maj a b c).getLsbD i = true ↔ 2 ≤ (a.getLsbD i).toNat + (b.getLsbD i).toNat + (c.getLsbD i).toNat)) ∧
  (∀ e f g : Word, ch e f g = (e &&& f) ^^^ (~~~e &&& g)) ∧
  (∀ a b c : Word, maj a b c = (a &&& b) ^^^ (a &&& c) ^^^ (b &&& c)) ∧
  (∀ e f g : Word, ch 0xFFFFFFFF f g = f ∧ ch 0x00000000 f g = g ∧ ch e f f = f) ∧
  (∀ x y : Word, maj x x y = x ∧ maj x y y = y ∧ maj x (~~~x) y = y) ∧
  ch 0xFFFFFFFF 0x12345678 0x9ABCDEF0 = 0x12345678 ∧ ch 0x00000000 0x12345678 0x9ABCDEF0 = 0x9ABCDEF0 ∧
  ch 0xF0F0F0F0 0xFFFF0000 0x0000FFFF = 0xF0F00F0F ∧
  maj 0xFF00FF00 0xF0F0F0F0 0xCCCCCCCC = 0xFCC0FCC0 ∧ maj 0x12345678 0x12345678 0x9ABCDEF0 = 0x12345678

/-- R82 to R85, whole: each output bit of the four sigma functions is the exclusive or of three input bits, the last one
absent where a shift pushed in a zero; and their corner cases and examples. -/
def Obligations.SigmaFunctionsBitByBit : Prop :=
  (∀ (x : Word) (i : Nat), i < 32 →
    (bsig0 x).getLsbD i = ((x.getLsbD ((i + 2) % 32)).xor (x.getLsbD ((i + 13) % 32))).xor (x.getLsbD ((i + 22) % 32)) ∧
    (bsig1 x).getLsbD i = ((x.getLsbD ((i + 6) % 32)).xor (x.getLsbD ((i + 11) % 32))).xor (x.getLsbD ((i + 25) % 32)) ∧
    (ssig0 x).getLsbD i = ((x.getLsbD ((i + 7) % 32)).xor (x.getLsbD ((i + 18) % 32))).xor
      (decide (i + 3 < 32) && x.getLsbD (i + 3)) ∧
    (ssig1 x).getLsbD i = ((x.getLsbD ((i + 17) % 32)).xor (x.getLsbD ((i + 19) % 32))).xor
      (decide (i + 10 < 32) && x.getLsbD (i + 10))) ∧
  (bsig0 0 = 0 ∧ bsig0 0xFFFFFFFF = 0xFFFFFFFF ∧ bsig0 0x00000001 = 0x40080400 ∧ bsig0 0x80000000 = 0x20040200 ∧
    bsig0 0x12345678 = 0x66146474) ∧
  (bsig1 0 = 0 ∧ bsig1 0xFFFFFFFF = 0xFFFFFFFF ∧ bsig1 0x00000001 = 0x04200080 ∧ bsig1 0x80000000 = 0x02100040 ∧
    bsig1 0x12345678 = 0x3561ABDA) ∧
  (ssig0 0 = 0 ∧ ssig0 0xFFFFFFFF = 0x1FFFFFFF ∧ ssig0 0x00000001 = 0x02004000 ∧ ssig0 0x80000000 = 0x11002000 ∧
    ssig0 0x12345678 = 0xE7FCE6EE) ∧
  (ssig1 0 = 0 ∧ ssig1 0xFFFFFFFF = 0x003FFFFF ∧ ssig1 0x00000001 = 0x0000A000 ∧ ssig1 0x80000000 = 0x00205000 ∧
    ssig1 0x12345678 = 0xA1F78649)

/-! ### Block pipeline (41_block_pipeline.md) and byte order (20_memory.md) -/

/-- R91, whole: PACK writes W[t] = B[4t]<<24 | B[4t+1]<<16 | B[4t+2]<<8 | B[4t+3] for t in 0..15 and nothing else of the
block; the all-zero block and the example. -/
def Obligations.PackIsBigEndian : Prop :=
  (∀ (b : Block) (c : CoreState), b.length = 64 →
    c.pack b = { c with w := (c.pack b).w } ∧
    (∀ t, t < 16 → ((c.pack b).w.getD t 0).toNat =
      (b.getD (4 * t) 0).toNat * 2 ^ 24 + (b.getD (4 * t + 1) 0).toNat * 2 ^ 16 +
      (b.getD (4 * t + 2) 0).toNat * 2 ^ 8 + (b.getD (4 * t + 3) 0).toNat) ∧
    (∀ t, 16 ≤ t → t < 64 → (c.pack b).w.getD t 0 = c.w.getD t 0)) ∧
  (∀ (c : CoreState) (t : Nat), t < 16 → (c.pack (List.replicate 64 0)).w.getD t 0 = 0) ∧
  (∀ c : CoreState, (c.pack countingBlock).w.getD 0 0 = 0x00010203 ∧ (c.pack countingBlock).w.getD 1 0 = 0x04050607 ∧
    (c.pack countingBlock).w.getD 15 0 = 0x3C3D3E3F)

/-- 20_memory.md R44 (its value clause): the word the host writes to DATA[j] is the word the packer makes of bytes 4j to
4j+3, so W[j] = DATA[j] for a BLOCK. -/
def Obligations.PackedDataIsData : Prop :=
  ∀ (c : CoreState) (j : Nat), j < 16 →
    (c.pack (dataBytes c.data 64)).w.getD j 0 = c.data.getD j 0 ∧
    (∀ k, k < 4 → dataByte c.data (4 * j + k) = BitVec.ofNat 8 ((c.data.getD j 0).toNat / 2 ^ (8 * (3 - k))))

/-- R92, whole: SCHEDULE keeps W[0..15], every W[t] above is the modular sum of the four entries below it, nothing else of
the block changes; the all-zero schedule and the "abc" example. -/
def Obligations.ScheduleRecurrence : Prop :=
  (∀ c : CoreState,
    c.schedule = { c with w := c.schedule.w } ∧
    (∀ t, t < 16 → c.schedule.w.getD t 0 = c.w.getD t 0) ∧
    (∀ t, 16 ≤ t → t < 64 → (c.schedule.w.getD t 0).toNat =
      ((c.schedule.w.getD (t - 16) 0).toNat + (ssig0 (c.schedule.w.getD (t - 15) 0)).toNat +
        (c.schedule.w.getD (t - 7) 0).toNat + (ssig1 (c.schedule.w.getD (t - 2) 0)).toNat) % 2 ^ 32) ∧
    ((∀ t, t < 16 → c.w.getD t 0 = 0) → ∀ t, t < 64 → c.schedule.w.getD t 0 = 0)) ∧
  (∀ c : CoreState,
    let w := (c.pack abcBlock).schedule.w
    w.getD 16 0 = 0x61626380 ∧ w.getD 17 0 = 0x000F0000 ∧ w.getD 18 0 = 0x7DA86405 ∧ w.getD 63 0 = 0x12B1EDEB)

/-- R93, whole: the schedule depends only on the bytes of the block, on no earlier W, on no H and on no other state. -/
def Obligations.ScheduleDependsOnlyOnTheBlock : Prop :=
  ∀ (b : Block) (c c' : CoreState), (c.pack b).schedule.w = (c'.pack b).schedule.w ∧
    (c.pack b).schedule.w = scheduleOf b

/-- R94, whole: INIT_VARS loads a..h from H and changes nothing else; after INIT, a and h hold the first and last words of
IV. -/
def Obligations.InitVarsLoadsTheDigest : Prop :=
  (∀ c : CoreState, c.initVars = { c with wv := c.initVars.wv } ∧
    c.initVars.wv = { a := c.h[0], b := c.h[1], c := c.h[2], d := c.h[3], e := c.h[4], f := c.h[5], g := c.h[6], h := c.h[7] }) ∧
  (∀ c : CoreState, c.startHash.initVars.wv.a = 0x6A09E667 ∧ c.startHash.initVars.wv.h = 0x5BE0CD19)

/-- R95, whole: one round's eight simultaneous assignments with wrapping sums, the equal sequential reading, and round 0 of
the "abc" block. -/
def Obligations.RoundAssignsSimultaneously : Prop :=
  (∀ (w : Vector Word 64) (t : Nat) (v : Working), t < 64 →
    let t1 := (v.h.toNat + (bsig1 v.e).toNat + (ch v.e v.f v.g).toNat + (roundConstant t).toNat + (w.getD t 0).toNat) % 2 ^ 32
    let t2 := ((bsig0 v.a).toNat + (maj v.a v.b v.c).toNat) % 2 ^ 32
    (roundOnce w t v).a.toNat = (t1 + t2) % 2 ^ 32 ∧ (roundOnce w t v).b = v.a ∧ (roundOnce w t v).c = v.b ∧
    (roundOnce w t v).d = v.c ∧ (roundOnce w t v).e.toNat = (v.d.toNat + t1) % 2 ^ 32 ∧ (roundOnce w t v).f = v.e ∧
    (roundOnce w t v).g = v.f ∧ (roundOnce w t v).h = v.g) ∧
  (∀ (w : Vector Word 64) (t : Nat) (v : Working),
    let t1 := roundT1 w t v
    let t2 := roundT2 v
    let v1 : Working := { v with h := v.g }
    let v2 : Working := { v1 with g := v1.f }
    let v3 : Working := { v2 with f := v2.e }
    let v4 : Working := { v3 with e := v3.d + t1 }
    let v5 : Working := { v4 with d := v4.c }
    let v6 : Working := { v5 with c := v5.b }
    let v7 : Working := { v6 with b := v6.a }
    roundOnce w t v = { v7 with a := t1 + t2 }) ∧
  (∀ v, v = roundOnce (scheduleOf abcBlock) 0 (loadWorking initialDigest) →
    v.a = 0x5D6AEBCD ∧ v.e = 0xFA2A4622 ∧ v.b = 0x6A09E667 ∧ v.f = 0x510E527F)

/-- R96, whole: exactly 64 rounds, round t with K[t] and W[t], in increasing t. -/
def Obligations.SixtyFourRoundsInOrder : Prop :=
  ∀ (c : CoreState) (f : Nat → Working), f 0 = c.wv → (∀ t, t < 64 → f (t + 1) = roundOnce c.w t (f t)) →
    c.rounds = { c with wv := f 64 }

/-- R97, whole: ACCUMULATE adds each working variable to its digest word modulo 2^32 and changes nothing else; in a
compression it runs once, after the rounds, and nothing before it changes H; the "abc" example. -/
def Obligations.AccumulateAddsEachWord : Prop :=
  (∀ c : CoreState, c.accumulate = { c with h := c.accumulate.h } ∧
    (∀ i : Fin 8, (c.accumulate.h[i]).toNat =
      ((c.h[i]).toNat + ([c.wv.a, c.wv.b, c.wv.c, c.wv.d, c.wv.e, c.wv.f, c.wv.g, c.wv.h].getD i 0).toNat) % 2 ^ 32)) ∧
  (∀ (b : Block) (c : CoreState), ∃ v : CoreState, v = (c.pack b).schedule.initVars.rounds ∧ v.h = c.h ∧
    c.compressBlock b = v.accumulate) ∧
  (∀ c : CoreState, c.h[0] = 0x6A09E667 → c.wv.a = 0x506E3058 → c.accumulate.h[0] = 0xBA7816BF)

/-- R98: the procedures the core runs on its own W, a..h and H, in the order written, leave in H the pure function
COMPRESS(H, B), whatever W and a..h held, and change only W, a..h and H. -/
def Obligations.CoreCompressionIsCompress : Prop :=
  ∀ (b : Block) (c : CoreState), b.length = 64 →
    (c.compressBlock b).h = compress c.h b ∧
    c.compressBlock b = { c with h := (c.compressBlock b).h, wv := (c.compressBlock b).wv, w := (c.compressBlock b).w } ∧
    c.compressBlock b = ((((c.pack b).schedule).initVars).rounds).accumulate

/-- R100, whole: the worked example, a..h after round 63 and COMPRESS(IV, B) for the padded "abc" block. -/
def Obligations.AbcBlockCompresses : Prop :=
  roundAll (scheduleOf abcBlock) (loadWorking initialDigest) =
    { a := 0x506E3058, b := 0xD39A2165, c := 0x04D24D6C, d := 0xB85E2CE9,
      e := 0x5EF50F24, f := 0xFB121210, g := 0x948D25B6, h := 0x961F4894 } ∧
  compress initialDigest abcBlock =
    #v[0xBA7816BF, 0x8F01CFEA, 0x414140DE, 0x5DAE2223, 0xB00361A3, 0x96177A9C, 0xB410FF61, 0xF20015AD]

/-! ### Padding engine (42_padding_engine.md) -/

/-- R108, whole: the length is bytes 56..63 of the last block, most significant first, so W[14] and W[15] of its schedule
are its halves; the example L = 3. -/
def Obligations.LengthFieldIsBigEndian : Prop :=
  (∀ (chunk : List Byte) (l : Word64) (k : Nat), chunk.length < 64 → k < 8 →
    ((padBlocks chunk l).getLast?.map fun p => (p.getD (56 + k) 0).toNat) = some (l.toNat / 2 ^ (8 * (7 - k)) % 2 ^ 8)) ∧
  (∀ (chunk : List Byte) (l : Word64) (p : Block), chunk.length < 64 → (padBlocks chunk l).getLast? = some p →
    ((scheduleOf p).getD 14 0).toNat = l.toNat / 2 ^ 32 ∧ ((scheduleOf p).getD 15 0).toNat = l.toNat % 2 ^ 32) ∧
  be64 (lenAfter 0 3) = [0, 0, 0, 0, 0, 0, 0, 0x18]

/-- R109, whole: PAD(M) is the message, 0x80, the least number of zeros that leaves 8 bytes of a block, and the length. -/
def Obligations.PaddedMessageShape : Prop :=
  ∀ m : List Byte, ∃ k : Nat, k < 64 ∧ (k : Int) = (55 - (m.length : Int)) % 64 ∧
    padMessage m = m ++ [0x80] ++ List.replicate k 0 ++ lengthBytes (BitVec.ofNat 64 (8 * m.length % 2 ^ 64)) ∧
    (m.length + 1 + k) % 64 = 56 ∧ ∀ k', (m.length + 1 + k') % 64 = 56 → k ≤ k'

/-- R110, whole: PAD(M) has 64 NB(L) bytes, the two formulas of NB agree, and its examples. -/
def Obligations.BlockCountOfPaddedMessage : Prop :=
  (∀ m : List Byte, (padMessage m).length = 64 * blockCount m.length) ∧
  (∀ l : Nat, blockCount l = l / 64 + (if l % 64 ≤ 55 then 1 else 2) ∧ blockCount l = (l + 8) / 64 + 1) ∧
  blockCount 0 = 1 ∧ blockCount 55 = 1 ∧ blockCount 56 = 2 ∧ blockCount 63 = 2 ∧ blockCount 64 = 2 ∧
  blockCount 119 = 2 ∧ blockCount 120 = 3

/-- 42_padding_engine.md R113: PADFINAL compresses the one or two blocks of the final chunk in order, counts them, adds 8n to
LEN modulo 2^64, and writes neither DATA nor any other register of the host's. The clause that PAD is empty after it is not
R113's: it is 10_state.md R26's (PAD is discarded at the end of the FINAL), in the model's form of log 15. -/
def Obligations.PadFinalEffect : Prop :=
  ∀ (c : CoreState) (n : Nat), n < 64 →
    let len' := BitVec.ofNat 64 (c.len.toNat + 8 * n)
    let blocks := finalBlocks (bufferBytes c.data n) len'
    (c.padFinal n).h = blocks.foldl compress c.h ∧
    (c.padFinal n).blkcnt.toNat = (c.blkcnt.toNat + if n ≤ 55 then 1 else 2) % 2 ^ 32 ∧
    c.padFinal n = { c with h := (c.padFinal n).h, wv := (c.padFinal n).wv, w := (c.padFinal n).w,
                            blkcnt := (c.padFinal n).blkcnt, len := len', pad := [] } ∧
    (∀ b ∈ blocks, b.length = 64)

/-- R114, whole: there is room for the length in the marker's block exactly when n <= 55, and this is the spill rule with
n = L mod 64. -/
def Obligations.RoomForTheLength : Prop :=
  (∀ (chunk : List Byte) (l : Word64), chunk.length < 64 →
    ((padBlocks chunk l).length = 1 ↔ 64 - (chunk.length + 1) ≥ 8) ∧
    ((padBlocks chunk l).length = 2 ↔ ¬ 64 - (chunk.length + 1) ≥ 8) ∧
    (64 - (chunk.length + 1) ≥ 8 ↔ chunk.length ≤ 55)) ∧
  (∀ (m : List Byte) (l : Word64),
    blockCount m.length = m.length / 64 + (padBlocks (m.drop (64 * (m.length / 64))) l).length)

/-- R115, whole: two blocks that agree on H, LEN, BLKCNT and the first n bytes of DATA agree on H, LEN and BLKCNT after
FINAL n, whatever else of DATA and of the hidden state differs. -/
def Obligations.FinalIgnoresLaterBytes : Prop :=
  ∀ (c c' : CoreState) (n : Nat), n < 64 → c.h = c'.h → c.len = c'.len → c.blkcnt = c'.blkcnt →
    (∀ k, k < n → dataByte c.data k = dataByte c'.data k) →
    (c.padFinal n).h = (c'.padFinal n).h ∧ (c.padFinal n).len = (c'.padFinal n).len ∧
    (c.padFinal n).blkcnt = (c'.padFinal n).blkcnt

/-- R116 at the level of blocks: the 64-byte blocks of PAD(M) are M's full chunks and then the blocks PADFINAL makes of
the rest, and one more block per chunk is what NB(L) counts. -/
def Obligations.StreamBlocksArePaddedMessage : Prop :=
  ∀ m : List Byte,
    blocksOf (blockCount m.length) (padMessage m) =
      blocksOf (m.length / 64) m ++ padBlocks (m.drop (64 * (m.length / 64))) (bitLength m) ∧
    (blocksOf (blockCount m.length) (padMessage m)).flatten = padMessage m

/-- 42_padding_engine.md R117, in the model's form: from any state with BUSY = 0, whatever was hashed before, the events of
HASH M (30_encoding.md R68), with any latency of each command and any bytes after the message's last, leave SHA256(M) in H and
return it in the reads of DIGEST0 to DIGEST7; LEN and BLKCNT are as R116 says, the status as R132. The form is the model's:
the agenda (log 1), POLL as the reads of STATUS around the core step (log 2), the words read in `reads` (log 8). -/
def Obligations.HashSequenceGivesSha256 : Prop :=
  ∀ (s : State) (m fill : List Byte) (lat : Nat → Nat) (k : Nat), s.core.busy = false →
    ∃ t, Reaches (hashEvents lat k fill m).length { s with agenda := hashEvents lat k fill m ++ s.agenda } t ∧
      t.core.h = (blocksOf (blockCount m.length) (padMessage m)).foldl compress initialDigest ∧
      t.reads.take 8 = t.core.h.toList.reverse ∧
      t.core.len = bitLength m ∧ t.core.blkcnt = BitVec.ofNat 32 (blockCount m.length) ∧
      t.core.status = 0x00000002 ∧ t.agenda = s.agenda

/-! ### Commands (43_commands.md) -/

/-- R130, whole: INIT with BUSY = 0, in either phase, runs its assignments and nothing else; with BUSY = 1 it records
BUSY_CMD and nothing above happens; two in a row are as one; every other word with OP = 1 is RESERVED_BITS. -/
def Obligations.InitStartsHash : Prop :=
  (∀ s : State, s.core.busy = false →
    exec .init s = .next { s with core := { s.core with
      h := #v[0x6a09e667, 0xbb67ae85, 0x3c6ef372, 0xa54ff53a, 0x510e527f, 0x9b05688c, 0x1f83d9ab, 0x5be0cd19],
      len := 0, blkcnt := 0, phase := .absorb, err := false, errcode := 0 } } ∧
    (∀ t, exec .init s = .next t → exec .init t = .next t ∧ t.core.status = 0)) ∧
  (∀ s : State, s.core.busy = true → exec .init s = .next (rejected 4 s.agenda s)) ∧
  encode .init = 0x00000001 ∧
  (∀ v : Word, opOf v = 1 → v ≠ 0x00000001 → decode v = .error .reservedBits)

/-- R128, whole: an accepted BLOCK or FINAL n writes only PENDING and BUSY. -/
def Obligations.AcceptanceOnlyPends : Prop :=
  ∀ s : State, s.core.busy = false → s.core.phase = .absorb →
    exec .block s = .next { s with core := { s.core with pending := some (.block, 0), busy := true } } ∧
    (∀ n : Fin 64, exec (.final n) s = .next { s with core := { s.core with pending := some (.final, n), busy := true } })

/-- R131, whole: BLOCK is accepted exactly with BUSY = 0 in phase ABSORB, its effect is at the core's next step, its
errors are BUSY_CMD, SEQUENCE and RESERVED_BITS, and its example. -/
def Obligations.BlockAbsorbsTheBuffer : Prop :=
  (∀ s : State, s.core.busy = false → s.core.phase = .absorb →
    ∃ t, exec .block s = .next t ∧ t.core.busy = true ∧ ∀ rest, t.upcoming = some (.core, rest) →
      ∃ u, step t = .next u ∧
        u.core.h = compress s.core.h (bufferBytes s.core.data 64) ∧
        u.core.len.toNat = (s.core.len.toNat + 512) % 2 ^ 64 ∧
        u.core.blkcnt.toNat = (s.core.blkcnt.toNat + 1) % 2 ^ 32 ∧
        u = { s with agenda := rest,
                     core := { s.core with h := u.core.h, wv := u.core.wv, w := u.core.w, len := u.core.len,
                                           blkcnt := u.core.blkcnt, busy := false, pending := none } }) ∧
  (∀ s : State, s.core.busy = true → exec .block s = .next (rejected 4 s.agenda s)) ∧
  (∀ s : State, s.core.busy = false → s.core.phase = .done → exec .block s = .next (rejected 3 s.agenda s)) ∧
  encode .block = 0x00000002 ∧
  (∀ v : Word, opOf v = 2 → v ≠ 0x00000002 → decode v = .error .reservedBits) ∧
  compress initialDigest countingBlock =
    #v[0xFC99A2DF, 0x88F42A7A, 0x7BB9D180, 0x33CDC6A2, 0x0256755F, 0x9D5B9A50, 0x44A9CC31, 0x5ABE84A7]

/-- 43_commands.md R132: FINAL n is accepted exactly with BUSY = 0 in phase ABSORB, for every n in 0..63; at the core's next
step it pads and compresses the final chunk and sets DONE; its errors; and the "abc" example. The clause that PAD is empty
after it is not R132's: it is 10_state.md R26's (PAD is discarded at the end of a FINAL), in the model's form of log 15. -/
def Obligations.FinalPadsAndFinishes : Prop :=
  (∀ (s : State) (n : Fin 64), s.core.busy = false → s.core.phase = .absorb →
    ∃ t, exec (.final n) s = .next t ∧ t.core.busy = true ∧ ∀ rest, t.upcoming = some (.core, rest) →
      ∃ u, step t = .next u ∧
        u.core.len = BitVec.ofNat 64 (s.core.len.toNat + 8 * n.val) ∧
        u.core.h = (finalBlocks (bufferBytes s.core.data n) u.core.len).foldl compress s.core.h ∧
        u.core.blkcnt.toNat = (s.core.blkcnt.toNat + if n.val ≤ 55 then 1 else 2) % 2 ^ 32 ∧
        u = { s with agenda := rest,
                     core := { s.core with h := u.core.h, wv := u.core.wv, w := u.core.w, len := u.core.len,
                                           blkcnt := u.core.blkcnt, phase := .done, busy := false, pending := none,
                                           pad := [] } }) ∧
  (∀ (s : State) (n : Fin 64), s.core.busy = true → exec (.final n) s = .next (rejected 4 s.agenda s)) ∧
  (∀ (s : State) (n : Fin 64), s.core.busy = false → s.core.phase = .done →
    exec (.final n) s = .next (rejected 3 s.agenda s)) ∧
  (∀ n : Fin 64, encode (.final n) = 0x00000003 ||| (BitVec.ofNat 32 n <<< 8)) ∧
  (∀ v : Word, opOf v = 3 → (rsv0Of v ≠ 0 ∨ rsv1Of v ≠ 0) → decode v = .error .reservedBits) ∧
  (finalBlocks [0x61, 0x62, 0x63] 24).foldl compress initialDigest =
    #v[0xBA7816BF, 0x8F01CFEA, 0x414140DE, 0x5DAE2223, 0xB00361A3, 0x96177A9C, 0xB410FF61, 0xF20015AD]

/-- The term FINAL n with n above 63, which no word encodes, is refused by name: the model's own choice (log 12). -/
def Obligations.UnencodableFinalRefused : Prop :=
  ∀ (s : State) (n : Nat), 64 ≤ n → exec (.final n) s = .refused .illFormed ∧ ∀ v : Word, decode v ≠ .ok (.final n)

/-- R127, whole: a CMD write is checked in the order written and the first check that fails decides the code; the word is
not decoded while BUSY = 1; INIT passes the phase check. -/
def Obligations.CommandChecksInOrder : Prop :=
  ∀ (s : State) (rest : List Event) (v : Word),
    (s.core.busy = true → step { s with agenda := wr 0x00 v :: rest } = .next (rejected 4 rest s)) ∧
    (s.core.busy = false → ¬ (1 ≤ opOf v ∧ opOf v ≤ 3) →
      step { s with agenda := wr 0x00 v :: rest } = .next (rejected 1 rest s)) ∧
    (s.core.busy = false → 1 ≤ opOf v ∧ opOf v ≤ 3 →
      (rsv0Of v ≠ 0 ∨ rsv1Of v ≠ 0 ∨ (opOf v ≤ 2 ∧ nbytesOf v ≠ 0)) →
      step { s with agenda := wr 0x00 v :: rest } = .next (rejected 2 rest s)) ∧
    (s.core.busy = false → 2 ≤ opOf v ∧ opOf v ≤ 3 → rsv0Of v = 0 → rsv1Of v = 0 → (opOf v = 2 → nbytesOf v = 0) →
      (s.core.phase = .done → step { s with agenda := wr 0x00 v :: rest } = .next (rejected 3 rest s)) ∧
      (s.core.phase = .absorb → ∃ t, step { s with agenda := wr 0x00 v :: rest } = .next t ∧ t.core.busy = true ∧
        t.core.err = s.core.err ∧ t.core.errcode = s.core.errcode)) ∧
    (s.core.busy = false → v = 0x00000001 → ∃ t, step { s with agenda := wr 0x00 v :: rest } = .next t ∧
      t.core.phase = .absorb ∧ t.core.err = false)

/-- When the host's next access writes a legal command word and BUSY = 0, the step is `exec` of the decoded command, with
that event used up; while BUSY = 1 the word is not decoded. `withFetchWord` is that write (logs 1, 11). -/
def Obligations.StepRunsTheDecodedCommand : Prop :=
  (∀ (s : State) (rest : List Event) (v : Word) (i : Instr), s.core.busy = false → decode v = .ok i →
    step { s with agenda := wr 0x00 v :: rest } = exec i { s with agenda := rest }) ∧
  (∀ (s : State) (w : Nat) (i : Instr), s.core.busy = false → decodeTableWord 32 w = some i →
    step (s.withFetchWord 32 w) = exec i s) ∧
  (∀ (s : State) (rest : List Event) (v : Word), s.core.busy = true →
    step { s with agenda := wr 0x00 v :: rest } = .next (rejected 4 rest s))

/-- The frame of the three commands: an `exec` that answers a next state leaves W, a..h, DATA, PAD and everything outside
the block alone; BLOCK and FINAL also leave H, LEN, BLKCNT and PHASE, INIT also leaves BUSY and PENDING. -/
def Obligations.CommandFrame : Prop :=
  ∀ (i : Instr) (s t : State), exec i s = .next t →
    t = { s with core := t.core } ∧ t.core.w = s.core.w ∧ t.core.wv = s.core.wv ∧ t.core.data = s.core.data ∧
    t.core.pad = s.core.pad ∧
    (i ≠ .init → t.core.h = s.core.h ∧ t.core.len = s.core.len ∧ t.core.blkcnt = s.core.blkcnt ∧
      t.core.phase = s.core.phase) ∧
    (i = .init → t.core.busy = s.core.busy ∧ t.core.pending = s.core.pending)

/-- The core's turn with BUSY = 0 changes nothing of the block (R133 gives no step there; the model's own choice is that
the turn passes, log 3), and an idle block whose host is silent holds its state (60_exceptions.md R174). -/
def Obligations.IdleBlockHolds : Prop :=
  ∀ s : State, s.core.busy = false →
    (∀ rest, step { s with agenda := .core :: rest } = .next { s with agenda := rest }) ∧
    (s.agenda = [] → step s = .next s)

/-- 43_commands.md R134 in the model's form: a command in flight completes after finitely many steps, at most one more than
there are events, whatever the host does, also where it is stuck at an access outside the contract. That the core takes its
turn when the host is silent or stuck, and that the host's events are finitely many, is the model's form (logs 1, 9). -/
def Obligations.CommandCompletes : Prop :=
  ∀ s : State, s.core.busy = true →
    ∃ k t, k ≤ s.agenda.length + 1 ∧ Reaches k s t ∧ t.core.busy = false

/-! ### Host register access (44_bus_access.md, 20_memory.md) -/

/-- R146, whole: every read, by offset, with BUSY = 0; the reads without a hazard at all times. No read writes state of the
block: the only change is the word returned, which the model keeps in `reads` (log 8). -/
def Obligations.ReadsReturnTheRegisters : Prop :=
  ∀ (s : State) (rest : List Event),
    let answers := fun (off : Nat) (v : Word) =>
      step { s with agenda := rd off :: rest } = .next { s with agenda := rest, reads := v :: s.reads }
    answers 0x00 0 ∧ answers 0x04 s.core.status ∧
    (∀ off, off = 0x14 ∨ off = 0x18 ∨ off = 0x1C → answers off 0) ∧
    (∀ off, 0x80 ≤ off → off ≤ 0xFC → off % 4 = 0 → answers off 0) ∧
    (∀ j : Fin 16, answers (0x40 + 4 * j) s.core.data[j]) ∧
    (s.core.busy = false →
      answers 0x08 (BitVec.ofNat 32 s.core.len.toNat) ∧ answers 0x0C (BitVec.ofNat 32 (s.core.len.toNat / 2 ^ 32)) ∧
      answers 0x10 s.core.blkcnt ∧ (∀ i : Fin 8, answers (0x20 + 4 * i) s.core.h[i]))

/-- R147: the STATUS word as a number, its reserved bits 0, and its examples; it is what a read of offset 0x04 returns at
all times. -/
def Obligations.StatusWord : Prop :=
  (∀ c : CoreState, c.status.toNat =
    16 * c.errcode.toNat + 4 * c.err.toNat + 2 * (if c.phase = .done then 1 else 0) + c.busy.toNat) ∧
  (∀ (s : State) (rest : List Event), step { s with agenda := rd 0x04 :: rest } =
    .next { s with agenda := rest, reads := s.core.status :: s.reads }) ∧
  (∀ c : CoreState, c.status.getLsbD 3 = false ∧ ∀ i, 8 ≤ i → c.status.getLsbD i = false) ∧
  (∀ c : CoreState, c.err = false → c.errcode = 0 → c.phase = .absorb → c.busy = false → c.status = 0x00000000) ∧
  (∀ c : CoreState, c.err = false → c.errcode = 0 → c.phase = .absorb → c.busy = true → c.status = 0x00000001) ∧
  (∀ c : CoreState, c.err = false → c.errcode = 0 → c.phase = .done → c.busy = false → c.status = 0x00000002) ∧
  (∀ c : CoreState, c.err = true → c.errcode = 3 → c.phase = .done → c.busy = false → c.status = 0x00000036)

/-- R149 in the model's form: while BUSY = 1 a read of LEN_LO, LEN_HI, BLKCNT or DIGESTi returns a fresh free word and
changes no state of the block. That the word is `Config.busyRead` of a counter is the model's choice (log 6); the statement
holds for every value of it. -/
def Obligations.BusyReadsAreFree : Prop :=
  ∀ (s : State) (rest : List Event) (off : Nat), s.core.busy = true →
    (off = 0x08 ∨ off = 0x0C ∨ off = 0x10 ∨ ∃ i : Fin 8, off = 0x20 + 4 * i) →
    step { s with agenda := rd off :: rest } =
      .next { s with agenda := rest, reads := Config.busyRead s.draws :: s.reads, draws := s.draws + 1 }

/-- R150, whole: a DATA write while BUSY = 1 records BUSY_DATA and changes nothing else; otherwise it sets DATA[j], in any
phase, and bytes 4j to 4j+3 of the block are the word's bytes, most significant first; the example. -/
def Obligations.DataWrites : Prop :=
  (∀ (s : State) (rest : List Event) (j : Fin 16) (v : Word),
    (s.core.busy = true → step { s with agenda := wr (0x40 + 4 * j) v :: rest } = .next (rejected 5 rest s)) ∧
    (s.core.busy = false → ∃ t, step { s with agenda := wr (0x40 + 4 * j) v :: rest } = .next t ∧
      t = { s with agenda := rest, core := { s.core with data := s.core.data.set j v } } ∧
      (∀ k, k < 64 → dataByte t.core.data k =
        if k / 4 = j.val then BitVec.ofNat 8 (v.toNat / 2 ^ (8 * (3 - k % 4))) else dataByte s.core.data k))) ∧
  (∀ d : Vector Word 16, dataBytes (d.set 0 0x61626300) 4 = [0x61, 0x62, 0x63, 0x00])

/-- R152, whole: a write to a read-only or reserved offset has no effect and records no error, whether BUSY is 0 or 1. -/
def Obligations.OtherWritesIgnored : Prop :=
  ∀ (s : State) (rest : List Event) (off : Nat) (v : Word), off % 4 = 0 →
    (off = 0x04 ∨ off = 0x08 ∨ off = 0x0C ∨ off = 0x10 ∨ (0x20 ≤ off ∧ off ≤ 0x3C) ∨ (0x14 ≤ off ∧ off ≤ 0x1C) ∨
      (0x80 ≤ off ∧ off ≤ 0xFC)) →
    step { s with agenda := wr off v :: rest } = .next { s with agenda := rest }

/-- 20_memory.md R42: the address decode of a window at BASE, a multiple of 0x100, the register slot an address selects, and
accesses issued outside the window, which leave the block alone. The first clause is the model's (log 10, deduced from R42 and
10_state.md R30): an access that stands in the agenda at an offset of 0x100 or more, of any width and alignment, is used up
and changes nothing. -/
def Obligations.AddressDecode : Prop :=
  (∀ (s : State) (rest : List Event) (a : Access), 0x100 ≤ a.off →
    step { s with agenda := .access a :: rest } = .next { s with agenda := rest }) ∧
  ∀ (base addr : Nat), validBase base = true →
    (base ≤ addr ∧ addr < base + 0x100 → windowOffset base addr = some (addr - base) ∧ (addr - base) / 4 = addr / 4 % 64) ∧
    (∀ (s : State) (width : Nat) (op : BusOp),
      (base ≤ addr ∧ addr < base + 0x100 →
        s.issue base addr width op = { s with agenda := s.agenda ++ [.access { off := addr - base, width := width, op := op }] }) ∧
      (¬ (base ≤ addr ∧ addr < base + 0x100) → s.issue base addr width op = s))

/-- 20_memory.md R45 in the model's form: an access to the window of another width or at an offset that is not a multiple of 4
has no step. The host is stuck at it and makes no further access; the core's turns and the resets to come go on, and a
command in flight completes (43_commands.md R134). The machine stops, under the name `outsideContract`, exactly when the host
is stuck, nothing but its accesses is to come and no command is in flight: that this is a stop is the model's choice
(log 9). -/
def Obligations.AccessOutsideContractIsStuck : Prop :=
  (∀ (s : State) (a : Access) (as : List Access), HostStuckAt a → s.agenda = .access a :: as.map .access →
    (s.core.busy = false → step s = .fault .outsideContract) ∧
    (s.core.busy = true → step s = .next { s with agenda := [.access a], core := s.core.turn })) ∧
  (∀ (s : State) (a : Access) (as : List Access) (more : List Event), HostStuckAt a →
    (s.agenda = .access a :: (as.map .access ++ .core :: more) →
      ∃ rest, step s = .next { s with agenda := .access a :: rest, core := s.core.turn } ∧
        rest = more.filter fun e => decide (e = .core ∨ e = .reset)) ∧
    (s.agenda = .access a :: (as.map .access ++ .reset :: more) →
      ∃ t, step s = .next t ∧ AfterReset t.core ∧
        t.agenda = .access a :: more.filter fun e => decide (e = .core ∨ e = .reset))) ∧
  (∀ s : State, step s = .fault .outsideContract →
    s.core.busy = false ∧ ∃ (a : Access) (as : List Access), HostStuckAt a ∧ s.agenda = .access a :: as.map .access)

/-- Every access that R45 admits is performed (20_memory.md R49) and no state with a command in flight stops (43_commands.md
R134). The rest is the model's choice: an access elsewhere is used up (20_memory.md R42; log 10), a core turn with BUSY = 0
passes (60_exceptions.md R174; log 3), a step with no event waiting is the core's turn (log 1), and a reset is an event of the
agenda (log 18). So a step answers a next state unless the host is stuck at the head of the agenda (log 9) and BUSY = 0. -/
def Obligations.AdmittedEventsNeverStop : Prop :=
  ∀ s : State, (s.core.busy = true ∨ ∀ a rest, s.agenda = .access a :: rest → ¬ HostStuckAt a) → ∃ t, step s = .next t

/-! ### Whole-machine rules -/

/-- R15: H is written by the accumulator, by INIT and by reset, and by nothing else. -/
def Obligations.OnlyThreeWritersOfTheDigest : Prop :=
  ∀ s t : State, step s = .next t → t.core.h ≠ s.core.h →
    (CoreNext s ∧ s.core.busy = true ∧ ∃ blocks : List Block, blocks ≠ [] ∧ (∀ b ∈ blocks, b.length = 64) ∧
      t.core.blkcnt = s.core.blkcnt + BitVec.ofNat 32 blocks.length ∧ t.core.h = blocks.foldl compress s.core.h) ∨
    (InitNext s ∧ t.core.h = initialDigest) ∨ (ResetNext s ∧ t.core.h = initialDigest)

/-- Only host writes change DATA, no command does (10_state.md R25), but for a reset: a step that changes it is an accepted
DATA write, which changes one word, or a reset. -/
def Obligations.OnlyHostWritesChangeData : Prop :=
  ∀ s t : State, step s = .next t → t.core.data ≠ s.core.data →
    (s.core.busy = false ∧ ∃ (j : Fin 16) (v : Word) (rest : List Event),
      s.agenda = wr (0x40 + 4 * j) v :: rest ∧ t.core.data = s.core.data.set j v) ∨ ResetNext s

/-- 60_exceptions.md R165: ERR and ERRCODE are cleared by an accepted INIT and by reset, and by nothing else; while ERR = 1 nothing
else changes them, so the first code is kept. -/
def Obligations.OnlyInitAndResetClearErrors : Prop :=
  ∀ s t : State, step s = .next t → s.core.err = true →
    (t.core.err = true ∧ t.core.errcode = s.core.errcode ∧ ¬ InitNext s ∧ ¬ ResetNext s) ∨
    ((InitNext s ∨ ResetNext s) ∧ t.core.err = false ∧ t.core.errcode = 0)

/-- 60_exceptions.md R164 in part: errors are precise. A step that changes ERRCODE while ERR was 0, other than INIT and reset, changes nothing but ERR
and ERRCODE, and only a host write does it. -/
def Obligations.ErrorsArePrecise : Prop :=
  ∀ s t : State, step s = .next t → s.core.err = false → t.core.err = true →
    ∃ a v rest, s.agenda = .access a :: rest ∧ a.op = .write v ∧
      t = { s with agenda := rest, core := { s.core with err := true, errcode := t.core.errcode } } ∧
      1 ≤ t.core.errcode.toNat ∧ t.core.errcode.toNat ≤ 5 ∧ (t.core.errcode = 5 ↔ a.off ≠ 0)

/-- 20_memory.md R54 and 43_commands.md R129: while a command is in flight no host access changes H, LEN, BLKCNT, PHASE,
BUSY, PENDING, DATA or the hidden state, so the command is unaffected and absorbs the DATA of its acceptance. (At an access
the host is stuck at, no access happens.) -/
def Obligations.HostCannotDisturbACommand : Prop :=
  ∀ (s t : State) (a : Access) (rest : List Event), s.core.busy = true → ¬ HostStuckAt a → s.agenda = .access a :: rest →
    step s = .next t →
    t.core = { s.core with err := t.core.err, errcode := t.core.errcode } ∧ t.agenda = rest

/-- R54 over a run: after any number of accesses the host is not stuck at, whatever they write, the core step absorbs the DATA of the
acceptance. -/
def Obligations.CommandAbsorbsDataOfAcceptance : Prop :=
  ∀ (s : State) (as : List Access) (rest : List Event), s.core.busy = false → s.core.phase = .absorb →
    (∀ a ∈ as, ¬ HostStuckAt a) →
    ∃ t, Reaches (as.length + 2)
        { s with agenda := wr 0x00 0x00000002 :: (as.map Event.access ++ Event.core :: rest) } t ∧
      t.core.h = compress s.core.h (bufferBytes s.core.data 64) ∧ t.core.data = s.core.data ∧
      t.core.busy = false ∧ t.agenda = rest

/-- 20_memory.md R51 in part: after an accepted BLOCK or FINAL every read of STATUS returns BUSY = 1 until the completion step: a step that
clears BUSY is the core's, or a reset. -/
def Obligations.BusyUntilCompletion : Prop :=
  ∀ s t : State, step s = .next t → s.core.busy = true →
    (t.core.busy = true ∧ ¬ CoreNext s ∧ ¬ ResetNext s) ∨ ((CoreNext s ∨ ResetNext s) ∧ t.core.busy = false)

/-- R188, whole: in phase DONE, BLOCK and FINAL are rejected with SEQUENCE, and H keeps the final digest until INIT or
reset. -/
def Obligations.DigestKeptUntilInit : Prop :=
  (∀ s : State, s.core.busy = false → s.core.phase = .done →
    exec .block s = .next (rejected 3 s.agenda s) ∧
    ∀ n : Fin 64, exec (.final n) s = .next (rejected 3 s.agenda s)) ∧
  (∀ s t : State, s.Inv → s.core.phase = .done → step s = .next t →
    (t.core.phase = .done ∧ t.core.h = s.core.h ∧ t.core.len = s.core.len ∧ t.core.blkcnt = s.core.blkcnt) ∨
    InitNext s ∨ ResetNext s)

/-- 70_reset_and_hazards.md R181 and R182: reset, also while BUSY = 1, sets every element as the table says, whatever its
unspecified words (W, a..h, DATA) are, and the registers then read as listed; the pending command is gone; the state is the one
an INIT would leave, but for DATA. The machine's own reset state is such a state. The clauses that reset leaves the host's other
events and the words already read alone are neither R181's nor R182's: they are the model's choice (log 7). -/
def Obligations.ResetSetsTheWholeState : Prop :=
  (∀ (s : State) (rest : List Event), ∃ t, step { s with agenda := .reset :: rest } = .next t ∧
    t.agenda = rest ∧ t.reads = s.reads ∧ AfterReset t.core ∧ exec .init t = .next t) ∧
  AfterReset State.reset.core ∧
  (∀ c : CoreState, AfterReset c →
    (∀ off, off % 4 = 0 → (off < 0x20 ∨ 0x80 ≤ off) → c.readRegister off = 0) ∧
    (∀ i : Fin 8, c.readRegister (0x20 + 4 * i) = initialDigest[i]) ∧
    (∀ j : Fin 16, c.readRegister (0x40 + 4 * j) = c.data[j]))

/-- The state after reset meets the invariant. -/
def Obligations.ResetMeetsInvariant : Prop := State.reset.Inv

/-- The invariant holds along every run: BUSY exactly when a command pends, ERR exactly when ERRCODE is not 0, no code above
5, a command in flight only in phase ABSORB, PAD empty, LEN a multiple of 8 (10_state.md R23, R24, R26, 60_exceptions.md
R161, 92_eei_decisions.md D27). -/
def Obligations.EveryStepKeepsInvariant : Prop :=
  ∀ s t : State, s.Inv → step s = .next t → t.Inv

/-- R154 (the byte form) and R155 (the rendering): 32 bytes, DIGEST0 first, each word most significant byte first; 64
characters, 8 for each word, leading zeros kept. -/
def Obligations.DigestRendering : Prop :=
  (∀ h : Vector Word 8, (digestBytes h).length = 32 ∧ (renderDigest h).length = 64 ∧
    ∀ (i : Fin 8) (k : Fin 4), ((digestBytes h).getD (4 * i + k) 0).toNat = (h[i]).toNat / 2 ^ (8 * (3 - k.val)) % 2 ^ 8) ∧
  (∀ (h : Vector Word 8) (i k : Fin 8),
    (renderDigest h).getD (8 * i + k) ' ' =
      "0123456789abcdef".toList.getD ((h[i]).toNat / 2 ^ (4 * (7 - k.val)) % 16) ' ') ∧
  hex8 0x0000ABCD = "0000abcd".toList

/-- Which event happens next, in the model's form (logs 1, 9): with the host silent the core's turn; else the head of the
agenda, unless the host is stuck at it. A stuck host stays at its access and makes none of its later ones (20_memory.md R45);
the first core turn or reset to come is next, and with none to come, a command in flight completes (43_commands.md R134). -/
def Obligations.WhoMovesNext : Prop :=
  ∀ s : State,
    (s.agenda = [] → s.upcoming = some (.core, [])) ∧
    (∀ rest, s.agenda = .core :: rest → s.upcoming = some (.core, rest)) ∧
    (∀ rest, s.agenda = .reset :: rest → s.upcoming = some (.reset, rest)) ∧
    (∀ a rest, s.agenda = .access a :: rest → ¬ HostStuckAt a → s.upcoming = some (.access a, rest)) ∧
    (∀ (a : Access) (as : List Access) (rest : List Event), HostStuckAt a →
      (s.agenda = .access a :: as.map .access →
        s.upcoming = if s.core.busy = true then some (.core, [.access a]) else none) ∧
      (∀ e, e = .core ∨ e = .reset → s.agenda = .access a :: (as.map .access ++ e :: rest) →
        s.upcoming = some (e, .access a :: rest.filter fun x => decide (x = .core ∨ x = .reset))))
end

