-- ==== Sys2Proof/Laws/Datapath.lean ====
section
/-! SUPPORT. The loop of the datapath, the word packer and the scheduler entry by entry, and the lengths of the padding
engine's blocks. -/

namespace Sys2Proof.Machine

/-! ### The loop -/

@[simp] theorem forRange_zero {α : Type} (lo : Nat) (body : Nat → α → α) (x : α) : forRange lo 0 body x = x := by
  unfold forRange; simp

theorem forRange_succ {α : Type} (lo n : Nat) (body : Nat → α → α) (x : α) :
    forRange lo (n + 1) body x = body (lo + n) (forRange lo n body x) := by
  unfold forRange; simp [List.range'_concat]

theorem forRange_add {α : Type} (lo n k : Nat) (body : Nat → α → α) (x : α) :
    forRange lo (n + k) body x = forRange (lo + n) k body (forRange lo n body x) := by
  induction k with
  | zero => simp
  | succ k ih => rw [← Nat.add_assoc, forRange_succ, ih, forRange_succ, Nat.add_assoc]

/-- What holds at the start and is kept by every turn of the loop holds at its end. -/
theorem forRange_induct {α : Type} (P : Nat → α → Prop) (lo n : Nat) (body : Nat → α → α) (x : α) (h0 : P 0 x)
    (hs : ∀ k y, k < n → P k y → P (k + 1) (body (lo + k) y)) : P n (forRange lo n body x) := by
  induction n with
  | zero => simpa
  | succ n ih =>
    rw [forRange_succ]
    exact hs n _ (Nat.lt_succ_self n) (ih fun k y hk => hs k y (Nat.lt_succ_of_lt hk))

theorem roundAll_eq (w : Vector Word 64) (v : Working) : roundAll w v = forRange 0 64 (roundOnce w) v := by
  simp [roundAll]

/-! ### Entries of a vector of words -/

theorem Vector_getD_eq {n : Nat} (w : Vector Word n) (i : Nat) (hi : i < n) : w.getD i 0 = w[i] := by
  simp [Vector.getD, Array.getD, hi]

theorem Vector_getD_setIfInBounds {n : Nat} (w : Vector Word n) (t i : Nat) (v : Word) (ht : t < n) :
    (w.setIfInBounds t v).getD i 0 = if i = t then v else w.getD i 0 := by
  by_cases hi : i < n
  · rw [Vector_getD_eq _ _ hi, Vector_getD_eq _ _ hi, Vector.getElem_setIfInBounds]
    simp only [eq_comm]
  · have : i ≠ t := by omega
    simp [Vector.getD, Array.getD, hi, this]

theorem Vector_ext_getD {n : Nat} (w w' : Vector Word n) (h : ∀ i, i < n → w.getD i 0 = w'.getD i 0) : w = w' := by
  ext i hi : 1
  rw [← Vector_getD_eq _ _ hi, ← Vector_getD_eq _ _ hi, h i hi]

/-! ### The word packer -/

theorem packInto_getD (b : Block) (w : Vector Word 64) (i : Nat) :
    (packInto b w).getD i 0 = if i < 16 then packWord b i else w.getD i 0 := by
  refine forRange_induct (fun k (y : Vector Word 64) => y.getD i 0 = if i < k then packWord b i else w.getD i 0) 0 16 _ w
    (by simp) fun k y hk hy => ?_
  rw [Vector_getD_setIfInBounds _ _ _ _ (by omega), hy]
  rcases Nat.lt_trichotomy i k with h | rfl | h
  · simp [h, show i ≠ k by omega, show i < k + 1 by omega]
  · simp
  · simp [show i ≠ k by omega, show ¬ i < k + 1 by omega, show ¬ i < k by omega]

/-! ### The message scheduler -/

/-- The scheduler keeps the entries it has passed and has not touched the others. -/
theorem schedule_step (w : Vector Word 64) (n : Nat) (hn : n ≤ 48) (i : Nat) :
    (i < 16 ∨ 16 + n ≤ i →
      (forRange 16 n (fun t w => w.setIfInBounds t (scheduleWord w t)) w).getD i 0 = w.getD i 0) ∧
    (16 ≤ i → i < 16 + n →
      (forRange 16 n (fun t w => w.setIfInBounds t (scheduleWord w t)) w).getD i 0 =
        scheduleWord (forRange 16 n (fun t w => w.setIfInBounds t (scheduleWord w t)) w) i) := by
  induction n generalizing i with
  | zero => simp; omega
  | succ n ih =>
    have hn' : n ≤ 48 := by omega
    rw [forRange_succ]
    set y := forRange 16 n (fun t w => w.setIfInBounds t (scheduleWord w t)) w with hy
    have hset := fun v j => Vector_getD_setIfInBounds y (16 + n) j v (by omega)
    have hword : ∀ v j, 16 ≤ j → j ≤ 16 + n → scheduleWord (y.setIfInBounds (16 + n) v) j = scheduleWord y j := by
      intro v j hj hjn
      simp only [scheduleWord, hset]
      simp [show j - 16 ≠ 16 + n by omega, show j - 15 ≠ 16 + n by omega, show j - 7 ≠ 16 + n by omega,
        show j - 2 ≠ 16 + n by omega]
    refine ⟨fun h => ?_, fun h16 hlt => ?_⟩
    · rw [hset, if_neg (by omega)]
      exact (ih hn' i).1 (by omega)
    · rw [hset, hword _ i h16 (by omega)]
      by_cases hi : i = 16 + n
      · simp [hi]
      · rw [if_neg hi]
        exact (ih hn' i).2 h16 (by omega)

theorem scheduleInto_getD_low (w : Vector Word 64) (i : Nat) (h : i < 16) : (scheduleInto w).getD i 0 = w.getD i 0 :=
  (schedule_step w 48 le_rfl i).1 (.inl h)

theorem scheduleInto_getD (w : Vector Word 64) (i : Nat) (h : 16 ≤ i) (h' : i < 64) :
    (scheduleInto w).getD i 0 = scheduleWord (scheduleInto w) i :=
  (schedule_step w 48 le_rfl i).2 h (by omega)

/-- The schedule is a function of its first 16 words. -/
theorem scheduleInto_congr (w w' : Vector Word 64) (h : ∀ i, i < 16 → w.getD i 0 = w'.getD i 0) :
    scheduleInto w = scheduleInto w' := by
  refine Vector_ext_getD _ _ fun i => ?_
  induction i using Nat.strong_induction_on with
  | _ i ih =>
    intro hi
    by_cases h16 : i < 16
    · rw [scheduleInto_getD_low _ _ h16, scheduleInto_getD_low _ _ h16, h i h16]
    · rw [scheduleInto_getD _ _ (by omega) hi, scheduleInto_getD _ _ (by omega) hi]
      simp only [scheduleWord]
      rw [ih (i - 16) (by omega) (by omega), ih (i - 15) (by omega) (by omega), ih (i - 7) (by omega) (by omega),
        ih (i - 2) (by omega) (by omega)]

/-! ### Lengths -/

@[simp] theorem be64_length (l : Word64) : (be64 l).length = 8 := by simp [be64]

@[simp] theorem dataBytes_length (data : Vector Word 16) (n : Nat) : (dataBytes data n).length = n := by simp [dataBytes]

@[simp] theorem zeroBytes_length (k : Nat) : (zeroBytes k).length = k := by simp [zeroBytes]

theorem markedBlock_length (chunk : List Byte) (h : chunk.length < 64) : (markedBlock chunk).length = 64 := by
  simp [markedBlock]; omega

/-- Every block the padding engine makes has 64 bytes (42_padding_engine.md R113). -/
theorem padBlocks_length_64 (chunk : List Byte) (l : Word64) (h : chunk.length < 64) :
    ∀ b ∈ padBlocks chunk l, b.length = 64 := by
  intro b hb
  by_cases hf : lengthFits chunk.length
  · simp only [padBlocks, hf, if_true, List.mem_singleton] at hb
    subst hb
    simp [markedBlock_length chunk h]
  · simp only [padBlocks, hf, Bool.false_eq_true, if_false, List.mem_cons, List.not_mem_nil, or_false] at hb
    rcases hb with rfl | rfl
    · exact markedBlock_length chunk h
    · simp

end Sys2Proof.Machine
end

