-- ==== Sys2Proof/Laws/State.lean ====
section
/-! SUPPORT. One lemma per field and update of the state, each true by definition, so that no later proof unfolds a record
update. -/

namespace Sys2Proof.Machine

section
variable (c : CoreState) (s : State)

/-! ### `CoreState.recordError` -/

@[simp] theorem CoreState.recordError_h (e : ErrorCause) : (CoreState.recordError e c).h = c.h := rfl
@[simp] theorem CoreState.recordError_wv (e : ErrorCause) : (CoreState.recordError e c).wv = c.wv := rfl
@[simp] theorem CoreState.recordError_w (e : ErrorCause) : (CoreState.recordError e c).w = c.w := rfl
@[simp] theorem CoreState.recordError_len (e : ErrorCause) : (CoreState.recordError e c).len = c.len := rfl
@[simp] theorem CoreState.recordError_blkcnt (e : ErrorCause) : (CoreState.recordError e c).blkcnt = c.blkcnt := rfl
@[simp] theorem CoreState.recordError_phase (e : ErrorCause) : (CoreState.recordError e c).phase = c.phase := rfl
@[simp] theorem CoreState.recordError_busy (e : ErrorCause) : (CoreState.recordError e c).busy = c.busy := rfl
@[simp] theorem CoreState.recordError_pending (e : ErrorCause) : (CoreState.recordError e c).pending = c.pending := rfl
@[simp] theorem CoreState.recordError_err (e : ErrorCause) : (CoreState.recordError e c).err = true := rfl
@[simp] theorem CoreState.recordError_errcode (e : ErrorCause) : (CoreState.recordError e c).errcode = if c.err then c.errcode else e.code := rfl
@[simp] theorem CoreState.recordError_data (e : ErrorCause) : (CoreState.recordError e c).data = c.data := rfl
@[simp] theorem CoreState.recordError_pad (e : ErrorCause) : (CoreState.recordError e c).pad = c.pad := rfl

/-! ### `CoreState.accept` -/

@[simp] theorem CoreState.accept_h (op : Op) (n : Fin 64) : (CoreState.accept op n c).h = c.h := rfl
@[simp] theorem CoreState.accept_wv (op : Op) (n : Fin 64) : (CoreState.accept op n c).wv = c.wv := rfl
@[simp] theorem CoreState.accept_w (op : Op) (n : Fin 64) : (CoreState.accept op n c).w = c.w := rfl
@[simp] theorem CoreState.accept_len (op : Op) (n : Fin 64) : (CoreState.accept op n c).len = c.len := rfl
@[simp] theorem CoreState.accept_blkcnt (op : Op) (n : Fin 64) : (CoreState.accept op n c).blkcnt = c.blkcnt := rfl
@[simp] theorem CoreState.accept_phase (op : Op) (n : Fin 64) : (CoreState.accept op n c).phase = c.phase := rfl
@[simp] theorem CoreState.accept_busy (op : Op) (n : Fin 64) : (CoreState.accept op n c).busy = true := rfl
@[simp] theorem CoreState.accept_pending (op : Op) (n : Fin 64) : (CoreState.accept op n c).pending = some (op, n) := rfl
@[simp] theorem CoreState.accept_err (op : Op) (n : Fin 64) : (CoreState.accept op n c).err = c.err := rfl
@[simp] theorem CoreState.accept_errcode (op : Op) (n : Fin 64) : (CoreState.accept op n c).errcode = c.errcode := rfl
@[simp] theorem CoreState.accept_data (op : Op) (n : Fin 64) : (CoreState.accept op n c).data = c.data := rfl
@[simp] theorem CoreState.accept_pad (op : Op) (n : Fin 64) : (CoreState.accept op n c).pad = c.pad := rfl

/-! ### `CoreState.startHash` -/

@[simp] theorem CoreState.startHash_h : (CoreState.startHash c).h = initialDigest := rfl
@[simp] theorem CoreState.startHash_wv : (CoreState.startHash c).wv = c.wv := rfl
@[simp] theorem CoreState.startHash_w : (CoreState.startHash c).w = c.w := rfl
@[simp] theorem CoreState.startHash_len : (CoreState.startHash c).len = 0 := rfl
@[simp] theorem CoreState.startHash_blkcnt : (CoreState.startHash c).blkcnt = 0 := rfl
@[simp] theorem CoreState.startHash_phase : (CoreState.startHash c).phase = .absorb := rfl
@[simp] theorem CoreState.startHash_busy : (CoreState.startHash c).busy = c.busy := rfl
@[simp] theorem CoreState.startHash_pending : (CoreState.startHash c).pending = c.pending := rfl
@[simp] theorem CoreState.startHash_err : (CoreState.startHash c).err = false := rfl
@[simp] theorem CoreState.startHash_errcode : (CoreState.startHash c).errcode = 0 := rfl
@[simp] theorem CoreState.startHash_data : (CoreState.startHash c).data = c.data := rfl
@[simp] theorem CoreState.startHash_pad : (CoreState.startHash c).pad = c.pad := rfl

/-! ### `CoreState.setData` -/

@[simp] theorem CoreState.setData_h (j : Nat) (v : Word) : (CoreState.setData j v c).h = c.h := rfl
@[simp] theorem CoreState.setData_wv (j : Nat) (v : Word) : (CoreState.setData j v c).wv = c.wv := rfl
@[simp] theorem CoreState.setData_w (j : Nat) (v : Word) : (CoreState.setData j v c).w = c.w := rfl
@[simp] theorem CoreState.setData_len (j : Nat) (v : Word) : (CoreState.setData j v c).len = c.len := rfl
@[simp] theorem CoreState.setData_blkcnt (j : Nat) (v : Word) : (CoreState.setData j v c).blkcnt = c.blkcnt := rfl
@[simp] theorem CoreState.setData_phase (j : Nat) (v : Word) : (CoreState.setData j v c).phase = c.phase := rfl
@[simp] theorem CoreState.setData_busy (j : Nat) (v : Word) : (CoreState.setData j v c).busy = c.busy := rfl
@[simp] theorem CoreState.setData_pending (j : Nat) (v : Word) : (CoreState.setData j v c).pending = c.pending := rfl
@[simp] theorem CoreState.setData_err (j : Nat) (v : Word) : (CoreState.setData j v c).err = c.err := rfl
@[simp] theorem CoreState.setData_errcode (j : Nat) (v : Word) : (CoreState.setData j v c).errcode = c.errcode := rfl
@[simp] theorem CoreState.setData_data (j : Nat) (v : Word) : (CoreState.setData j v c).data = c.data.setIfInBounds j v := rfl
@[simp] theorem CoreState.setData_pad (j : Nat) (v : Word) : (CoreState.setData j v c).pad = c.pad := rfl

/-! ### `CoreState.pack` -/

@[simp] theorem CoreState.pack_h (b : Block) : (CoreState.pack b c).h = c.h := rfl
@[simp] theorem CoreState.pack_wv (b : Block) : (CoreState.pack b c).wv = c.wv := rfl
@[simp] theorem CoreState.pack_w (b : Block) : (CoreState.pack b c).w = packInto b c.w := rfl
@[simp] theorem CoreState.pack_len (b : Block) : (CoreState.pack b c).len = c.len := rfl
@[simp] theorem CoreState.pack_blkcnt (b : Block) : (CoreState.pack b c).blkcnt = c.blkcnt := rfl
@[simp] theorem CoreState.pack_phase (b : Block) : (CoreState.pack b c).phase = c.phase := rfl
@[simp] theorem CoreState.pack_busy (b : Block) : (CoreState.pack b c).busy = c.busy := rfl
@[simp] theorem CoreState.pack_pending (b : Block) : (CoreState.pack b c).pending = c.pending := rfl
@[simp] theorem CoreState.pack_err (b : Block) : (CoreState.pack b c).err = c.err := rfl
@[simp] theorem CoreState.pack_errcode (b : Block) : (CoreState.pack b c).errcode = c.errcode := rfl
@[simp] theorem CoreState.pack_data (b : Block) : (CoreState.pack b c).data = c.data := rfl
@[simp] theorem CoreState.pack_pad (b : Block) : (CoreState.pack b c).pad = c.pad := rfl

/-! ### `CoreState.schedule` -/

@[simp] theorem CoreState.schedule_h : (CoreState.schedule c).h = c.h := rfl
@[simp] theorem CoreState.schedule_wv : (CoreState.schedule c).wv = c.wv := rfl
@[simp] theorem CoreState.schedule_w : (CoreState.schedule c).w = scheduleInto c.w := rfl
@[simp] theorem CoreState.schedule_len : (CoreState.schedule c).len = c.len := rfl
@[simp] theorem CoreState.schedule_blkcnt : (CoreState.schedule c).blkcnt = c.blkcnt := rfl
@[simp] theorem CoreState.schedule_phase : (CoreState.schedule c).phase = c.phase := rfl
@[simp] theorem CoreState.schedule_busy : (CoreState.schedule c).busy = c.busy := rfl
@[simp] theorem CoreState.schedule_pending : (CoreState.schedule c).pending = c.pending := rfl
@[simp] theorem CoreState.schedule_err : (CoreState.schedule c).err = c.err := rfl
@[simp] theorem CoreState.schedule_errcode : (CoreState.schedule c).errcode = c.errcode := rfl
@[simp] theorem CoreState.schedule_data : (CoreState.schedule c).data = c.data := rfl
@[simp] theorem CoreState.schedule_pad : (CoreState.schedule c).pad = c.pad := rfl

/-! ### `CoreState.initVars` -/

@[simp] theorem CoreState.initVars_h : (CoreState.initVars c).h = c.h := rfl
@[simp] theorem CoreState.initVars_wv : (CoreState.initVars c).wv = loadWorking c.h := rfl
@[simp] theorem CoreState.initVars_w : (CoreState.initVars c).w = c.w := rfl
@[simp] theorem CoreState.initVars_len : (CoreState.initVars c).len = c.len := rfl
@[simp] theorem CoreState.initVars_blkcnt : (CoreState.initVars c).blkcnt = c.blkcnt := rfl
@[simp] theorem CoreState.initVars_phase : (CoreState.initVars c).phase = c.phase := rfl
@[simp] theorem CoreState.initVars_busy : (CoreState.initVars c).busy = c.busy := rfl
@[simp] theorem CoreState.initVars_pending : (CoreState.initVars c).pending = c.pending := rfl
@[simp] theorem CoreState.initVars_err : (CoreState.initVars c).err = c.err := rfl
@[simp] theorem CoreState.initVars_errcode : (CoreState.initVars c).errcode = c.errcode := rfl
@[simp] theorem CoreState.initVars_data : (CoreState.initVars c).data = c.data := rfl
@[simp] theorem CoreState.initVars_pad : (CoreState.initVars c).pad = c.pad := rfl

/-! ### `CoreState.rounds` -/

@[simp] theorem CoreState.rounds_h : (CoreState.rounds c).h = c.h := rfl
@[simp] theorem CoreState.rounds_wv : (CoreState.rounds c).wv = roundAll c.w c.wv := rfl
@[simp] theorem CoreState.rounds_w : (CoreState.rounds c).w = c.w := rfl
@[simp] theorem CoreState.rounds_len : (CoreState.rounds c).len = c.len := rfl
@[simp] theorem CoreState.rounds_blkcnt : (CoreState.rounds c).blkcnt = c.blkcnt := rfl
@[simp] theorem CoreState.rounds_phase : (CoreState.rounds c).phase = c.phase := rfl
@[simp] theorem CoreState.rounds_busy : (CoreState.rounds c).busy = c.busy := rfl
@[simp] theorem CoreState.rounds_pending : (CoreState.rounds c).pending = c.pending := rfl
@[simp] theorem CoreState.rounds_err : (CoreState.rounds c).err = c.err := rfl
@[simp] theorem CoreState.rounds_errcode : (CoreState.rounds c).errcode = c.errcode := rfl
@[simp] theorem CoreState.rounds_data : (CoreState.rounds c).data = c.data := rfl
@[simp] theorem CoreState.rounds_pad : (CoreState.rounds c).pad = c.pad := rfl

/-! ### `CoreState.accumulate` -/

@[simp] theorem CoreState.accumulate_h : (CoreState.accumulate c).h = accumulateInto c.h c.wv := rfl
@[simp] theorem CoreState.accumulate_wv : (CoreState.accumulate c).wv = c.wv := rfl
@[simp] theorem CoreState.accumulate_w : (CoreState.accumulate c).w = c.w := rfl
@[simp] theorem CoreState.accumulate_len : (CoreState.accumulate c).len = c.len := rfl
@[simp] theorem CoreState.accumulate_blkcnt : (CoreState.accumulate c).blkcnt = c.blkcnt := rfl
@[simp] theorem CoreState.accumulate_phase : (CoreState.accumulate c).phase = c.phase := rfl
@[simp] theorem CoreState.accumulate_busy : (CoreState.accumulate c).busy = c.busy := rfl
@[simp] theorem CoreState.accumulate_pending : (CoreState.accumulate c).pending = c.pending := rfl
@[simp] theorem CoreState.accumulate_err : (CoreState.accumulate c).err = c.err := rfl
@[simp] theorem CoreState.accumulate_errcode : (CoreState.accumulate c).errcode = c.errcode := rfl
@[simp] theorem CoreState.accumulate_data : (CoreState.accumulate c).data = c.data := rfl
@[simp] theorem CoreState.accumulate_pad : (CoreState.accumulate c).pad = c.pad := rfl

/-! ### `CoreState.retire` -/

@[simp] theorem CoreState.retire_h : (CoreState.retire c).h = c.h := rfl
@[simp] theorem CoreState.retire_wv : (CoreState.retire c).wv = c.wv := rfl
@[simp] theorem CoreState.retire_w : (CoreState.retire c).w = c.w := rfl
@[simp] theorem CoreState.retire_len : (CoreState.retire c).len = c.len := rfl
@[simp] theorem CoreState.retire_blkcnt : (CoreState.retire c).blkcnt = c.blkcnt := rfl
@[simp] theorem CoreState.retire_phase : (CoreState.retire c).phase = c.phase := rfl
@[simp] theorem CoreState.retire_busy : (CoreState.retire c).busy = false := rfl
@[simp] theorem CoreState.retire_pending : (CoreState.retire c).pending = none := rfl
@[simp] theorem CoreState.retire_err : (CoreState.retire c).err = c.err := rfl
@[simp] theorem CoreState.retire_errcode : (CoreState.retire c).errcode = c.errcode := rfl
@[simp] theorem CoreState.retire_data : (CoreState.retire c).data = c.data := rfl
@[simp] theorem CoreState.retire_pad : (CoreState.retire c).pad = c.pad := rfl

/-! ### `CoreState.compressBlock` -/

@[simp] theorem CoreState.compressBlock_len (b : Block) : (CoreState.compressBlock b c).len = c.len := rfl
@[simp] theorem CoreState.compressBlock_blkcnt (b : Block) : (CoreState.compressBlock b c).blkcnt = c.blkcnt := rfl
@[simp] theorem CoreState.compressBlock_phase (b : Block) : (CoreState.compressBlock b c).phase = c.phase := rfl
@[simp] theorem CoreState.compressBlock_busy (b : Block) : (CoreState.compressBlock b c).busy = c.busy := rfl
@[simp] theorem CoreState.compressBlock_pending (b : Block) : (CoreState.compressBlock b c).pending = c.pending := rfl
@[simp] theorem CoreState.compressBlock_err (b : Block) : (CoreState.compressBlock b c).err = c.err := rfl
@[simp] theorem CoreState.compressBlock_errcode (b : Block) : (CoreState.compressBlock b c).errcode = c.errcode := rfl
@[simp] theorem CoreState.compressBlock_data (b : Block) : (CoreState.compressBlock b c).data = c.data := rfl
@[simp] theorem CoreState.compressBlock_pad (b : Block) : (CoreState.compressBlock b c).pad = c.pad := rfl

/-! ### `CoreState.completeBlock` -/

@[simp] theorem CoreState.completeBlock_h : (CoreState.completeBlock c).h = (c.compressBlock (dataBytes c.data 64)).h := rfl
@[simp] theorem CoreState.completeBlock_len : (CoreState.completeBlock c).len = c.len + 512 := rfl
@[simp] theorem CoreState.completeBlock_blkcnt : (CoreState.completeBlock c).blkcnt = c.blkcnt + 1 := rfl
@[simp] theorem CoreState.completeBlock_phase : (CoreState.completeBlock c).phase = c.phase := rfl
@[simp] theorem CoreState.completeBlock_busy : (CoreState.completeBlock c).busy = c.busy := rfl
@[simp] theorem CoreState.completeBlock_pending : (CoreState.completeBlock c).pending = c.pending := rfl
@[simp] theorem CoreState.completeBlock_err : (CoreState.completeBlock c).err = c.err := rfl
@[simp] theorem CoreState.completeBlock_errcode : (CoreState.completeBlock c).errcode = c.errcode := rfl
@[simp] theorem CoreState.completeBlock_data : (CoreState.completeBlock c).data = c.data := rfl
@[simp] theorem CoreState.completeBlock_pad : (CoreState.completeBlock c).pad = c.pad := rfl

/-! ### `CoreState.completeFinal` -/

@[simp] theorem CoreState.completeFinal_h (n : Fin 64) : (CoreState.completeFinal n c).h = (c.padFinal n).h := rfl
@[simp] theorem CoreState.completeFinal_wv (n : Fin 64) : (CoreState.completeFinal n c).wv = (c.padFinal n).wv := rfl
@[simp] theorem CoreState.completeFinal_w (n : Fin 64) : (CoreState.completeFinal n c).w = (c.padFinal n).w := rfl
@[simp] theorem CoreState.completeFinal_len (n : Fin 64) : (CoreState.completeFinal n c).len = (c.padFinal n).len := rfl
@[simp] theorem CoreState.completeFinal_blkcnt (n : Fin 64) : (CoreState.completeFinal n c).blkcnt = (c.padFinal n).blkcnt := rfl
@[simp] theorem CoreState.completeFinal_phase (n : Fin 64) : (CoreState.completeFinal n c).phase = .done := rfl
@[simp] theorem CoreState.completeFinal_busy (n : Fin 64) : (CoreState.completeFinal n c).busy = (c.padFinal n).busy := rfl
@[simp] theorem CoreState.completeFinal_pending (n : Fin 64) : (CoreState.completeFinal n c).pending = (c.padFinal n).pending := rfl
@[simp] theorem CoreState.completeFinal_err (n : Fin 64) : (CoreState.completeFinal n c).err = (c.padFinal n).err := rfl
@[simp] theorem CoreState.completeFinal_errcode (n : Fin 64) : (CoreState.completeFinal n c).errcode = (c.padFinal n).errcode := rfl
@[simp] theorem CoreState.completeFinal_data (n : Fin 64) : (CoreState.completeFinal n c).data = (c.padFinal n).data := rfl
@[simp] theorem CoreState.completeFinal_pad (n : Fin 64) : (CoreState.completeFinal n c).pad = (c.padFinal n).pad := rfl

/-! ### `CoreState.absorbBlock` -/

@[simp] theorem CoreState.absorbBlock_h (b : Block) : (CoreState.absorbBlock b c).h = (c.compressBlock b).h := rfl
@[simp] theorem CoreState.absorbBlock_len (b : Block) : (CoreState.absorbBlock b c).len = c.len := rfl
@[simp] theorem CoreState.absorbBlock_blkcnt (b : Block) : (CoreState.absorbBlock b c).blkcnt = c.blkcnt + 1 := rfl
@[simp] theorem CoreState.absorbBlock_phase (b : Block) : (CoreState.absorbBlock b c).phase = c.phase := rfl
@[simp] theorem CoreState.absorbBlock_busy (b : Block) : (CoreState.absorbBlock b c).busy = c.busy := rfl
@[simp] theorem CoreState.absorbBlock_pending (b : Block) : (CoreState.absorbBlock b c).pending = c.pending := rfl
@[simp] theorem CoreState.absorbBlock_err (b : Block) : (CoreState.absorbBlock b c).err = c.err := rfl
@[simp] theorem CoreState.absorbBlock_errcode (b : Block) : (CoreState.absorbBlock b c).errcode = c.errcode := rfl
@[simp] theorem CoreState.absorbBlock_data (b : Block) : (CoreState.absorbBlock b c).data = c.data := rfl
@[simp] theorem CoreState.absorbBlock_pad (b : Block) : (CoreState.absorbBlock b c).pad = c.pad := rfl

/-! ### `State.mapCore` -/

@[simp] theorem State.mapCore_core (f : CoreState → CoreState) : (State.mapCore f s).core = f s.core := rfl
@[simp] theorem State.mapCore_agenda (f : CoreState → CoreState) : (State.mapCore f s).agenda = s.agenda := rfl
@[simp] theorem State.mapCore_reads (f : CoreState → CoreState) : (State.mapCore f s).reads = s.reads := rfl
@[simp] theorem State.mapCore_draws (f : CoreState → CoreState) : (State.mapCore f s).draws = s.draws := rfl

/-! ### `State.reject` -/

@[simp] theorem State.reject_core (e : ErrorCause) : (State.reject e s).core = s.core.recordError e := rfl
@[simp] theorem State.reject_agenda (e : ErrorCause) : (State.reject e s).agenda = s.agenda := rfl
@[simp] theorem State.reject_reads (e : ErrorCause) : (State.reject e s).reads = s.reads := rfl
@[simp] theorem State.reject_draws (e : ErrorCause) : (State.reject e s).draws = s.draws := rfl

/-! ### `State.answer` -/

@[simp] theorem State.answer_core (v : Word) : (State.answer v s).core = s.core := rfl
@[simp] theorem State.answer_agenda (v : Word) : (State.answer v s).agenda = s.agenda := rfl
@[simp] theorem State.answer_reads (v : Word) : (State.answer v s).reads = v :: s.reads := rfl
@[simp] theorem State.answer_draws (v : Word) : (State.answer v s).draws = s.draws := rfl

/-! ### `State.drawn` -/

@[simp] theorem State.drawn_core : (State.drawn s).core = s.core := rfl
@[simp] theorem State.drawn_agenda : (State.drawn s).agenda = s.agenda := rfl
@[simp] theorem State.drawn_reads : (State.drawn s).reads = s.reads := rfl
@[simp] theorem State.drawn_draws : (State.drawn s).draws = s.draws + 1 := rfl

/-! ### `State.assertReset` -/

@[simp] theorem State.assertReset_core : (State.assertReset s).core = CoreState.reset s.draws := rfl
@[simp] theorem State.assertReset_agenda : (State.assertReset s).agenda = s.agenda := rfl
@[simp] theorem State.assertReset_reads : (State.assertReset s).reads = s.reads := rfl
@[simp] theorem State.assertReset_draws : (State.assertReset s).draws = s.draws + 1 := rfl

/-! ### `State.withFetchWord` -/

@[simp] theorem State.withFetchWord_core (nbits v : Nat) : (s.withFetchWord nbits v).core = s.core := rfl
@[simp] theorem State.withFetchWord_agenda (nbits v : Nat) : (s.withFetchWord nbits v).agenda = wr 0x00 (BitVec.ofNat 32 (v % 2 ^ nbits)) :: s.agenda := rfl
@[simp] theorem State.withFetchWord_reads (nbits v : Nat) : (s.withFetchWord nbits v).reads = s.reads := rfl
@[simp] theorem State.withFetchWord_draws (nbits v : Nat) : (s.withFetchWord nbits v).draws = s.draws := rfl

/-! ### `CoreState.reset` -/

@[simp] theorem CoreState.reset_h (n : Nat) : (CoreState.reset n).h = initialDigest := rfl
@[simp] theorem CoreState.reset_wv (n : Nat) : (CoreState.reset n).wv = Working.reset n := rfl
@[simp] theorem CoreState.reset_w (n : Nat) : (CoreState.reset n).w = Vector.ofFn fun t => Config.scheduleReset n t := rfl
@[simp] theorem CoreState.reset_len (n : Nat) : (CoreState.reset n).len = 0 := rfl
@[simp] theorem CoreState.reset_blkcnt (n : Nat) : (CoreState.reset n).blkcnt = 0 := rfl
@[simp] theorem CoreState.reset_phase (n : Nat) : (CoreState.reset n).phase = .absorb := rfl
@[simp] theorem CoreState.reset_busy (n : Nat) : (CoreState.reset n).busy = false := rfl
@[simp] theorem CoreState.reset_pending (n : Nat) : (CoreState.reset n).pending = none := rfl
@[simp] theorem CoreState.reset_err (n : Nat) : (CoreState.reset n).err = false := rfl
@[simp] theorem CoreState.reset_errcode (n : Nat) : (CoreState.reset n).errcode = 0 := rfl
@[simp] theorem CoreState.reset_data (n : Nat) : (CoreState.reset n).data = Vector.ofFn fun j => Config.dataReset n j := rfl
@[simp] theorem CoreState.reset_pad (n : Nat) : (CoreState.reset n).pad = [] := rfl

end

end Sys2Proof.Machine
end

