-- ==== Sys2Proof/Laws/Ops.lean ====
section
/-! SUPPORT. What each shared operation can do, said once: the command meanings, the bus, and the step. Later proofs cite
these and never unfold the operations. -/

namespace Sys2Proof.Machine

/-! ### The commands -/

theorem issuePending_busy (op : Op) (n : Fin 64) (s : State) (h : s.core.busy = true) :
    issuePending op n s = .next (s.reject .busyCmd) := by simp [issuePending, h]

theorem issuePending_done (op : Op) (n : Fin 64) (s : State) (h : s.core.busy = false) (hp : s.core.phase = .done) :
    issuePending op n s = .next (s.reject .sequence) := by simp [issuePending, h, hp]

theorem issuePending_absorb (op : Op) (n : Fin 64) (s : State) (h : s.core.busy = false) (hp : s.core.phase = .absorb) :
    issuePending op n s = .next (s.mapCore (CoreState.accept op n)) := by simp [issuePending, h, hp]

theorem execInit_busy (s : State) (h : s.core.busy = true) : execInit s = .next (s.reject .busyCmd) := by
  simp [execInit, h]

theorem execInit_idle (s : State) (h : s.core.busy = false) : execInit s = .next (s.mapCore CoreState.startHash) := by
  simp [execInit, h]

theorem execFinal_fin (n : Fin 64) (s : State) : execFinal n s = issuePending .final n s := by simp [execFinal]

/-- What an `exec` that answers a next state has done. -/
inductive ExecCase (i : Instr) (s t : State) : Prop where
  /-- Rejected with BUSY_CMD. -/
  | busy (h : s.core.busy = true) (ht : t = s.reject .busyCmd)
  /-- BLOCK or FINAL rejected with SEQUENCE. -/
  | sequence (h : s.core.busy = false) (hi : i ≠ .init) (hp : s.core.phase = .done) (ht : t = s.reject .sequence)
  /-- INIT, done at once. -/
  | init (h : s.core.busy = false) (hi : i = .init) (ht : t = s.mapCore CoreState.startHash)
  /-- BLOCK, accepted. -/
  | block (h : s.core.busy = false) (hi : i = .block) (hp : s.core.phase = .absorb)
      (ht : t = s.mapCore (CoreState.accept .block 0))
  /-- FINAL n, accepted. -/
  | final (n : Fin 64) (h : s.core.busy = false) (hi : i = .final n) (hp : s.core.phase = .absorb)
      (ht : t = s.mapCore (CoreState.accept .final n))

theorem issuePending_next {op : Op} {n : Fin 64} {s t : State} (h : issuePending op n s = .next t) :
    (s.core.busy = true ∧ t = s.reject .busyCmd) ∨
    (s.core.busy = false ∧ s.core.phase = .done ∧ t = s.reject .sequence) ∨
    (s.core.busy = false ∧ s.core.phase = .absorb ∧ t = s.mapCore (CoreState.accept op n)) := by
  cases hb : s.core.busy with
  | true => rw [issuePending_busy _ _ _ hb] at h; cases h; exact .inl ⟨rfl, rfl⟩
  | false =>
    cases hp : s.core.phase with
    | done => rw [issuePending_done _ _ _ hb hp] at h; cases h; exact .inr (.inl ⟨rfl, rfl, rfl⟩)
    | absorb => rw [issuePending_absorb _ _ _ hb hp] at h; cases h; exact .inr (.inr ⟨rfl, rfl, rfl⟩)

theorem exec_next {i : Instr} {s t : State} (h : exec i s = .next t) : ExecCase i s t := by
  cases i with
  | init =>
    change execInit s = _ at h
    cases hb : s.core.busy with
    | true => rw [execInit_busy _ hb] at h; cases h; exact .busy hb rfl
    | false => rw [execInit_idle _ hb] at h; cases h; exact .init hb rfl rfl
  | block =>
    obtain ⟨hb, rfl⟩ | ⟨hb, hp, rfl⟩ | ⟨hb, hp, rfl⟩ := issuePending_next (show issuePending .block 0 s = _ from h)
    · exact .busy hb rfl
    · exact .sequence hb (by simp) hp rfl
    · exact .block hb rfl hp rfl
  | final n =>
    change execFinal n s = _ at h
    by_cases hn : n < 64
    · rw [show execFinal n s = issuePending .final ⟨n, hn⟩ s by simp [execFinal, hn]] at h
      obtain ⟨hb, rfl⟩ | ⟨hb, hp, rfl⟩ | ⟨hb, hp, rfl⟩ := issuePending_next h
      · exact .busy hb rfl
      · exact .sequence hb (by simp) hp rfl
      · exact .final ⟨n, hn⟩ hb rfl hp rfl
    · simp [execFinal, hn] at h

/-- A well-formed command answers a next state in every state. -/
theorem exec_total (i : Instr) (hi : i.WellFormed) (s : State) : ∃ t, exec i s = .next t := by
  have pend : ∀ op n, ∃ t, issuePending op n s = .next t := by
    intro op n
    cases hb : s.core.busy with
    | true => exact ⟨_, issuePending_busy _ _ _ hb⟩
    | false =>
      cases hp : s.core.phase with
      | done => exact ⟨_, issuePending_done _ _ _ hb hp⟩
      | absorb => exact ⟨_, issuePending_absorb _ _ _ hb hp⟩
  cases i with
  | init =>
    cases hb : s.core.busy with
    | true => exact ⟨_, execInit_busy _ hb⟩
    | false => exact ⟨_, execInit_idle _ hb⟩
  | block => exact pend _ _
  | final n =>
    have hn : n < 64 := of_decide_eq_true hi
    simpa [exec, execFinal, hn] using pend .final ⟨n, hn⟩

/-! ### The decoder, as far as the bus needs it -/

/-- The decoder gives only well-formed commands. -/
theorem decode_wellFormed {v : Word} {i : Instr} (h : decode v = .ok i) : i.WellFormed := by
  unfold decode at h
  split at h
  · cases h
  · split at h
    · cases h
    · split at h
      · cases h
      · split at h
        · cases h; rfl
        · split at h
          · cases h; rfl
          · cases h
            exact decide_eq_true (fieldNbytes v).isLt

/-! ### The bus -/

theorem issueCommand_busy (v : Word) (s : State) (h : s.core.busy = true) :
    s.issueCommand v = .next (s.reject .busyCmd) := by simp [State.issueCommand, h]

theorem issueCommand_error (v : Word) (s : State) (e : DecodeError) (h : s.core.busy = false) (hd : decode v = .error e) :
    s.issueCommand v = .next (s.reject (causeOf e)) := by simp [State.issueCommand, h, hd]

theorem issueCommand_ok (v : Word) (s : State) (i : Instr) (h : s.core.busy = false) (hd : decode v = .ok i) :
    s.issueCommand v = exec i s := by simp [State.issueCommand, h, hd]

theorem writeData_busy (j : Nat) (v : Word) (s : State) (h : s.core.busy = true) :
    s.writeData j v = s.reject .busyData := by simp [State.writeData, h]

theorem writeData_idle (j : Nat) (v : Word) (s : State) (h : s.core.busy = false) :
    s.writeData j v = s.mapCore (CoreState.setData j v) := by simp [State.writeData, h]

theorem dataIndex_eq_some {off j : Nat} : dataIndex off = some j ↔ 0x40 ≤ off ∧ off < 0x80 ∧ j = (off - 0x40) / 4 := by
  simp only [dataIndex]
  split <;> simp <;> omega

theorem dataIndex_register (j : Nat) (h : j < 16) : dataIndex (0x40 + 4 * j) = some j :=
  dataIndex_eq_some.2 (by omega)

theorem digestIndex_register (i : Nat) (h : i < 8) : digestIndex (0x20 + 4 * i) = some i := by
  simp only [digestIndex, if_pos (show 0x20 ≤ 0x20 + 4 * i ∧ 0x20 + 4 * i < 0x40 by omega)]
  congr 1; omega

theorem busRead_busy (off : Nat) (s : State) (h : s.core.busy = true) (hz : busyHazard off = true) :
    s.busRead off = (s.answer (Config.busyRead s.draws)).drawn := by simp [State.busRead, h, hz]

theorem busRead_idle (off : Nat) (s : State) (h : s.core.busy = false) :
    s.busRead off = s.answer (s.core.readRegister off) := by simp [State.busRead, h]

theorem busRead_safe (off : Nat) (s : State) (h : busyHazard off = false) :
    s.busRead off = s.answer (s.core.readRegister off) := by simp [State.busRead, h]

@[simp] theorem busRead_core (off : Nat) (s : State) : (s.busRead off).core = s.core := by
  unfold State.busRead; split <;> rfl

@[simp] theorem busRead_agenda (off : Nat) (s : State) : (s.busRead off).agenda = s.agenda := by
  unfold State.busRead; split <;> rfl

/-- An admitted access is performed as a read or a write. -/
theorem access_admitted (a : Access) (s : State) (h : a.admitted = true) :
    s.access a = match a.op with
      | .read => .next (s.busRead a.off)
      | .write v => s.busWrite a.off v := by
  simp only [Access.admitted, Bool.and_eq_true] at h
  cases ho : a.op <;> simp [State.access, h.1, h.2, ho]

/-- An access that answers a next state is outside the window and changes nothing, or is an admitted one. -/
theorem access_next {a : Access} {s t : State} (h : s.access a = .next t) :
    (a.inWindow = false ∧ t = s) ∨ a.admitted = true := by
  unfold State.access at h
  unfold Access.admitted
  cases hc : a.inContract <;> cases hw : a.inWindow <;> simp_all

/-- An admitted access is not stuck. -/
theorem admitted_not_stuck {a : Access} (h : a.admitted = true) : a.stuck = false := by
  simp only [Access.admitted, Bool.and_eq_true] at h
  simp [Access.stuck, h.1]

/-- An access outside the window is not stuck. -/
theorem elsewhere_not_stuck {a : Access} (h : a.inWindow = false) : a.stuck = false := by simp [Access.stuck, h]

/-- An access that is not stuck is outside the window or admitted. -/
theorem not_stuck_cases {a : Access} (h : a.stuck = false) : a.inWindow = false ∨ a.admitted = true := by
  cases hw : a.inWindow <;> simp_all [Access.stuck, Access.admitted]

/-- An access outside the window leaves the machine alone (20_memory.md R42). -/
theorem access_elsewhere (a : Access) (s : State) (h : a.inWindow = false) : s.access a = .next s := by
  simp [State.access, h]

theorem wr_admitted (off : Nat) (v : Word) (h4 : off % 4 = 0) (hw : off < 256) :
    (Access.admitted { off := off, width := 32, op := .write v }) = true := by
  simp [Access.admitted, Access.inContract, Access.inWindow, Config.windowBytes, h4, hw]

theorem rd_admitted (off : Nat) (h4 : off % 4 = 0) (hw : off < 256) :
    (Access.admitted { off := off, width := 32, op := .read }) = true := by
  simp [Access.admitted, Access.inContract, Access.inWindow, Config.windowBytes, h4, hw]

/-! ### Which event is next -/

theorem upcoming_silent {s : State} (h : s.agenda = []) : s.upcoming = some (.core, []) := by simp [State.upcoming, h]

theorem upcoming_event {s : State} {e : Event} {rest : List Event} (h : s.agenda = e :: rest) (he : e.stuck = false) :
    s.upcoming = some (e, rest) := by simp [State.upcoming, h, he]

theorem upcoming_others {s : State} {e x : Event} {rest more : List Event} (h : s.agenda = e :: rest) (he : e.stuck = true)
    (ho : rest.filter (fun x => !x.fromHost) = x :: more) : s.upcoming = some (x, e :: more) := by
  simp [State.upcoming, h, he, ho]

theorem upcoming_alone {s : State} {e : Event} {rest : List Event} (h : s.agenda = e :: rest) (he : e.stuck = true)
    (ho : rest.filter (fun x => !x.fromHost) = []) :
    s.upcoming = if s.core.busy then some (.core, [e]) else none := by simp only [State.upcoming, h, he, if_true, ho]

/-- Everything the choice of the next event can answer. -/
inductive UpcomingCase (s : State) : Option (Event × List Event) → Prop where
  /-- The host is silent. -/
  | silent (h : s.agenda = []) : UpcomingCase s (some (.core, []))
  /-- The head of the agenda. -/
  | event (e : Event) (rest : List Event) (h : s.agenda = e :: rest) (he : e.stuck = false) : UpcomingCase s (some (e, rest))
  /-- The host is stuck and another agent's event comes. -/
  | others (e x : Event) (rest more : List Event) (h : s.agenda = e :: rest) (he : e.stuck = true)
      (ho : rest.filter (fun x => !x.fromHost) = x :: more) (hx : x = .core ∨ x = .reset) :
      UpcomingCase s (some (x, e :: more))
  /-- The host is stuck, no other event comes, and a command is in flight. -/
  | completes (e : Event) (rest : List Event) (h : s.agenda = e :: rest) (he : e.stuck = true)
      (ho : rest.filter (fun x => !x.fromHost) = []) (hb : s.core.busy = true) : UpcomingCase s (some (.core, [e]))
  /-- No agent can move. -/
  | none (e : Event) (rest : List Event) (h : s.agenda = e :: rest) (he : e.stuck = true)
      (ho : rest.filter (fun x => !x.fromHost) = []) (hb : s.core.busy = false) : UpcomingCase s none

theorem upcoming_cases (s : State) : UpcomingCase s s.upcoming := by
  cases ha : s.agenda with
  | nil => rw [upcoming_silent ha]; exact .silent ha
  | cons e rest =>
    cases he : e.stuck with
    | false => rw [upcoming_event ha he]; exact .event e rest ha he
    | true =>
      cases ho : rest.filter (fun x => !x.fromHost) with
      | nil =>
        rw [upcoming_alone ha he ho]
        cases hb : s.core.busy with
        | true => exact .completes e rest ha he ho hb
        | false => exact .none e rest ha he ho hb
      | cons x more =>
        rw [upcoming_others ha he ho]
        refine .others e x rest more ha he ho ?_
        have hx := List.of_mem_filter (ho ▸ List.mem_cons_self : x ∈ rest.filter (fun x => !x.fromHost))
        cases x with
        | access a => cases hx
        | core => exact .inl rfl
        | reset => exact .inr rfl

/-- A host access that is next is the head of the agenda, and not stuck. -/
theorem upcoming_access {s : State} {a : Access} {rest : List Event} (h : s.upcoming = some (.access a, rest)) :
    s.agenda = .access a :: rest ∧ a.stuck = false := by
  have hc := upcoming_cases s
  rw [h] at hc
  cases hc with
  | event _ _ ha he => exact ⟨ha, he⟩
  | others _ _ _ _ _ _ _ hx => rcases hx with hx | hx <;> cases hx

/-- Unless the core moves, the agenda grows shorter. -/
theorem upcoming_length {s : State} {e : Event} {rest : List Event} (h : s.upcoming = some (e, rest)) :
    e = .core ∨ rest.length < s.agenda.length := by
  have hc := upcoming_cases s
  rw [h] at hc
  cases hc with
  | silent _ => exact .inl rfl
  | event _ _ ha _ => exact .inr (by simp [ha])
  | others e' _ r more ha _ ho _ =>
    refine .inr ?_
    have := List.length_filter_le (fun x => !x.fromHost) r
    rw [ho] at this
    simpa [ha] using this
  | completes _ _ _ _ _ _ => exact .inl rfl

/-! ### The step -/

theorem step_upcoming {s : State} {e : Event} {rest : List Event} (h : s.upcoming = some (e, rest)) :
    step s = ({ s with agenda := rest } : State).perform e := by simp [step, h]

theorem step_none {s : State} (h : s.upcoming = none) : step s = .fault .outsideContract := by simp [step, h]

theorem step_silent (s : State) (h : s.agenda = []) : step s = s.perform .core := by
  rw [step_upcoming (upcoming_silent h), ← h]

theorem step_agenda {s : State} {e : Event} {rest : List Event} (h : s.agenda = e :: rest) (he : e.stuck = false) :
    step s = ({ s with agenda := rest } : State).perform e := step_upcoming (upcoming_event h he)

theorem step_event (s : State) (e : Event) (rest : List Event) (he : e.stuck = false) :
    step { s with agenda := e :: rest } = ({ s with agenda := rest } : State).perform e :=
  step_agenda (s := { s with agenda := e :: rest }) rfl he

/-- A read of the window, as a step. -/
theorem step_rd (s : State) (rest : List Event) (off : Nat) (h4 : off % 4 = 0) (hw : off < 256) :
    step { s with agenda := rd off :: rest } = .next (({ s with agenda := rest } : State).busRead off) :=
  (step_event s (rd off) rest (admitted_not_stuck (rd_admitted off h4 hw))).trans
    (access_admitted _ _ (rd_admitted off h4 hw))

/-- A write in the window, as a step. -/
theorem step_wr (s : State) (rest : List Event) (off : Nat) (v : Word) (h4 : off % 4 = 0) (hw : off < 256) :
    step { s with agenda := wr off v :: rest } = ({ s with agenda := rest } : State).busWrite off v :=
  (step_event s (wr off v) rest (admitted_not_stuck (wr_admitted off v h4 hw))).trans
    (access_admitted _ _ (wr_admitted off v h4 hw))

/-- Why an access of the host is rejected. -/
inductive RejectCase (s : State) (a : Access) (v : Word) : ErrorCause → Prop where
  | busyCmd (h : s.core.busy = true) (ho : a.off = 0x00) : RejectCase s a v .busyCmd
  | busyData (j : Nat) (h : s.core.busy = true) (ho : dataIndex a.off = some j) : RejectCase s a v .busyData
  | illegal (e : DecodeError) (h : s.core.busy = false) (ho : a.off = 0x00) (hd : decode v = .error e) :
      RejectCase s a v (causeOf e)
  | sequence (i : Instr) (h : s.core.busy = false) (ho : a.off = 0x00) (hd : decode v = .ok i) (hi : i ≠ .init)
      (hp : s.core.phase = .done) : RejectCase s a v .sequence

/-- What a step that answers a next state has done. -/
inductive StepCase (s t : State) : Prop where
  /-- The core had its turn. -/
  | core (rest : List Event) (hu : s.upcoming = some (.core, rest)) (ht : t = { s with agenda := rest, core := s.core.turn })
  /-- The reset was asserted. -/
  | reset (rest : List Event) (hu : s.upcoming = some (.reset, rest)) (ht : t = ({ s with agenda := rest } : State).assertReset)
  /-- The host accessed something else than this block. -/
  | elsewhere (a : Access) (rest : List Event) (ha : s.agenda = .access a :: rest) (hw : a.inWindow = false)
      (ht : t = { s with agenda := rest })
  /-- The host read a register. -/
  | read (a : Access) (rest : List Event) (ha : s.agenda = .access a :: rest) (hadm : a.admitted = true) (hop : a.op = .read)
      (ht : t = ({ s with agenda := rest } : State).busRead a.off)
  /-- A write of the host was rejected. -/
  | rejected (a : Access) (v : Word) (rest : List Event) (e : ErrorCause) (ha : s.agenda = .access a :: rest)
      (hadm : a.admitted = true) (hop : a.op = .write v) (hr : RejectCase s a v e)
      (ht : t = ({ s with agenda := rest } : State).reject e)
  /-- INIT was accepted. -/
  | init (a : Access) (v : Word) (rest : List Event) (ha : s.agenda = .access a :: rest) (hadm : a.admitted = true)
      (hop : a.op = .write v) (ho : a.off = 0x00) (hd : decode v = .ok .init) (h : s.core.busy = false)
      (ht : t = ({ s with agenda := rest } : State).mapCore CoreState.startHash)
  /-- BLOCK or FINAL was accepted. -/
  | accepted (a : Access) (v : Word) (rest : List Event) (op : Op) (n : Fin 64) (ha : s.agenda = .access a :: rest)
      (hadm : a.admitted = true) (hop : a.op = .write v) (ho : a.off = 0x00) (h : s.core.busy = false)
      (hp : s.core.phase = .absorb)
      (hd : (op = .block ∧ n = 0 ∧ decode v = .ok .block) ∨ (op = .final ∧ decode v = .ok (.final n)))
      (ht : t = ({ s with agenda := rest } : State).mapCore (CoreState.accept op n))
  /-- A word was written to DATA. -/
  | data (a : Access) (v : Word) (rest : List Event) (j : Nat) (ha : s.agenda = .access a :: rest) (hadm : a.admitted = true)
      (hop : a.op = .write v) (ho : dataIndex a.off = some j) (h : s.core.busy = false)
      (ht : t = ({ s with agenda := rest } : State).mapCore (CoreState.setData j v))
  /-- A write to a read-only or reserved offset was ignored. -/
  | ignored (a : Access) (v : Word) (rest : List Event) (ha : s.agenda = .access a :: rest) (hadm : a.admitted = true)
      (hop : a.op = .write v) (ho : a.off ≠ 0x00) (hi : dataIndex a.off = none) (ht : t = { s with agenda := rest })

theorem step_next {s t : State} (h : step s = .next t) : StepCase s t := by
  cases hu : s.upcoming with
  | none => rw [step_none hu] at h; cases h
  | some p =>
    obtain ⟨e, rest⟩ := p
    rw [step_upcoming hu] at h
    cases e with
    | core => cases h; exact .core rest hu rfl
    | reset => cases h; exact .reset rest hu rfl
    | access a =>
      obtain ⟨ha, hs⟩ := upcoming_access hu
      rcases not_stuck_cases hs with hw | hadm
      · rw [show State.perform (.access a) _ = State.access a _ from rfl, access_elsewhere _ _ hw] at h
        cases h
        exact .elsewhere a rest ha hw rfl
      rw [show State.perform (.access a) _ = State.access a _ from rfl, access_admitted _ _ hadm] at h
      cases hop : a.op with
      | read => rw [hop] at h; cases h; exact .read a rest ha hadm hop rfl
      | write v =>
        rw [hop] at h
        dsimp only at h
        by_cases ho : a.off = 0x00
        · simp only [State.busWrite, if_pos ho] at h
          cases hb : s.core.busy with
          | true =>
            rw [issueCommand_busy _ _ (by exact hb)] at h; cases h
            exact .rejected a v rest _ ha hadm hop (.busyCmd hb ho) rfl
          | false =>
            cases hd : decode v with
            | error e =>
              rw [issueCommand_error _ _ e (by exact hb) hd] at h; cases h
              exact .rejected a v rest _ ha hadm hop (.illegal e hb ho hd) rfl
            | ok i =>
              rw [issueCommand_ok _ _ i (by exact hb) hd] at h
              cases exec_next h with
              | busy hb' _ => rw [show _ = true from hb'] at hb; cases hb
              | sequence _ hi hp ht => exact .rejected a v rest _ ha hadm hop (.sequence i hb ho hd hi hp) ht
              | init _ hi ht => exact .init a v rest ha hadm hop ho (hi ▸ hd) hb ht
              | block _ hi hp ht =>
                exact .accepted a v rest _ _ ha hadm hop ho hb hp (.inl ⟨rfl, rfl, hi ▸ hd⟩) ht
              | final n _ hi hp ht =>
                exact .accepted a v rest _ _ ha hadm hop ho hb hp (.inr ⟨rfl, hi ▸ hd⟩) ht
        · cases hi : dataIndex a.off with
          | none =>
            simp only [State.busWrite, if_neg ho, hi] at h; cases h
            exact .ignored a v rest ha hadm hop ho hi rfl
          | some j =>
            simp only [State.busWrite, if_neg ho, hi] at h; cases h
            cases hb : s.core.busy with
            | true => exact .rejected a v rest _ ha hadm hop (.busyData j hb hi) (writeData_busy _ _ _ hb)
            | false => exact .data a v rest j ha hadm hop hi hb (writeData_idle _ _ _ hb)

/-! ### The completion step -/

theorem turn_idle (c : CoreState) (h : c.busy = false) : c.turn = c := by simp [CoreState.turn, h]

theorem turn_block (c : CoreState) (n : Fin 64) (h : c.busy = true) (hp : c.pending = some (.block, n)) :
    c.turn = c.completeBlock.retire := by simp [CoreState.turn, CoreState.complete, h, hp]

theorem turn_final (c : CoreState) (n : Fin 64) (h : c.busy = true) (hp : c.pending = some (.final, n)) :
    c.turn = (c.completeFinal n).retire := by simp [CoreState.turn, CoreState.complete, h, hp]

/-- The core compressing a block changes only H, a..h, W and BLKCNT. -/
theorem absorbBlock_frame (b : Block) (c : CoreState) :
    c.absorbBlock b = { c with h := (c.absorbBlock b).h, wv := (c.absorbBlock b).wv, w := (c.absorbBlock b).w,
                               blkcnt := c.blkcnt + 1 } := rfl

/-- Compressing several blocks changes only H, a..h, W and BLKCNT. -/
theorem absorbBlocks_frame (bs : List Block) (c : CoreState) :
    let c' := bs.foldl (fun c b => c.absorbBlock b) c
    c' = { c with h := c'.h, wv := c'.wv, w := c'.w, blkcnt := c.blkcnt + BitVec.ofNat 32 bs.length } := by
  induction bs generalizing c with
  | nil => simp
  | cons b bs ih =>
    intro c'
    have h := ih (c.absorbBlock b)
    dsimp only [List.foldl_cons] at h c'
    rw [show c' = bs.foldl (fun c b => c.absorbBlock b) (c.absorbBlock b) from rfl, h]
    simp only [CoreState.absorbBlock_len, CoreState.absorbBlock_phase, CoreState.absorbBlock_busy, CoreState.absorbBlock_pending,
      CoreState.absorbBlock_err, CoreState.absorbBlock_errcode, CoreState.absorbBlock_data, CoreState.absorbBlock_pad,
      CoreState.absorbBlock_blkcnt, List.length_cons]
    congr 1
    rw [BitVec.add_assoc]
    congr 1
    apply BitVec.eq_of_toNat_eq
    simp [BitVec.toNat_add, BitVec.toNat_ofNat]
    omega

/-- PADFINAL changes only H, a..h, W, BLKCNT, LEN and PAD. -/
theorem padFinal_frame (n : Nat) (c : CoreState) :
    c.padFinal n = { c with h := (c.padFinal n).h, wv := (c.padFinal n).wv, w := (c.padFinal n).w, pad := [],
                            blkcnt := c.blkcnt + BitVec.ofNat 32 (padBlocks (dataBytes c.data n) (lenAfter c.len n)).length,
                            len := lenAfter c.len n } := by
  have h := absorbBlocks_frame (padBlocks (dataBytes c.data n) (lenAfter c.len n))
    { c with pad := padBlocks (dataBytes c.data n) (lenAfter c.len n) }
  dsimp only at h
  unfold CoreState.padFinal
  dsimp only
  rw [h]

@[simp] theorem CoreState.padFinal_len (n : Nat) (c : CoreState) : (c.padFinal n).len = lenAfter c.len n := by rw [padFinal_frame]

@[simp] theorem CoreState.padFinal_phase (n : Nat) (c : CoreState) : (c.padFinal n).phase = c.phase := by rw [padFinal_frame]

@[simp] theorem CoreState.padFinal_busy (n : Nat) (c : CoreState) : (c.padFinal n).busy = c.busy := by rw [padFinal_frame]

@[simp] theorem CoreState.padFinal_pending (n : Nat) (c : CoreState) : (c.padFinal n).pending = c.pending := by rw [padFinal_frame]

@[simp] theorem CoreState.padFinal_err (n : Nat) (c : CoreState) : (c.padFinal n).err = c.err := by rw [padFinal_frame]

@[simp] theorem CoreState.padFinal_errcode (n : Nat) (c : CoreState) : (c.padFinal n).errcode = c.errcode := by rw [padFinal_frame]

@[simp] theorem CoreState.padFinal_data (n : Nat) (c : CoreState) : (c.padFinal n).data = c.data := by rw [padFinal_frame]

@[simp] theorem CoreState.padFinal_pad (n : Nat) (c : CoreState) : (c.padFinal n).pad = [] := by rw [padFinal_frame]

end Sys2Proof.Machine
end

