-- ==== Sys2Proof/Laws/PerInstr.lean ====
section
/-! SUPPORT. Families of statements about the instruction as syntax, one lemma per constructor (LAWS.json). -/

namespace Sys2Proof.Laws

/-- The command word of a well-formed instruction spells its row of the opcode map: `v & mask = match`
(30_encoding.md R63). -/
def TableRow.Statement (i : Instr) : Prop := i.WellFormed → encode i &&& rowMask i = rowMatch i

theorem TableRow.init : TableRow.Statement .init := fun _ => by decide

theorem TableRow.block : TableRow.Statement .block := fun _ => by decide

theorem TableRow.final (n : Nat) : TableRow.Statement (.final n) := fun _ => by
  have h : ∀ b : BitVec 6, commandWord 3 b &&& 0xFFFFC0FF = 0x00000003 := by decide
  exact h _

end Sys2Proof.Laws
end

