-- ==== Sys2Proof/Laws/Run.lean ====
section
/-! SUPPORT. Runs of the machine: how `Reaches` composes, what every step does to the agenda, and the reads and turns a run
is made of. -/

namespace Sys2Proof.Machine

theorem reaches_zero (s : State) : Reaches 0 s s := rfl

theorem run_of_next {M : Host.Core} {k : Nat} {s u : M.State} (h : M.step s = .next u) : M.run (k + 1) s = M.run k u := by
  rw [Host.Core.run, h]

theorem run_of_fault {M : Host.Core} {k : Nat} {s : M.State} {r : M.Fault} (h : M.step s = .fault r) :
    M.run (k + 1) s = .fault r := by
  rw [Host.Core.run, h]

theorem run_of_refused {M : Host.Core} {k : Nat} {s : M.State} {r : M.Refusal} (h : M.step s = .refused r) :
    M.run (k + 1) s = .refused r := by
  rw [Host.Core.run, h]

theorem reaches_succ {k : Nat} {s u t : State} (h : step s = .next u) (h2 : Reaches k u t) : Reaches (k + 1) s t :=
  (run_of_next (M := Sys2Proof.core) h).trans h2

theorem reaches_succ_iff {k : Nat} {s t : State} : Reaches (k + 1) s t ↔ ∃ u, step s = .next u ∧ Reaches k u t := by
  refine ⟨fun h => ?_, fun ⟨u, hu, h⟩ => reaches_succ hu h⟩
  cases hs : step s with
  | next u => exact ⟨u, rfl, (run_of_next (M := Sys2Proof.core) hs).symm.trans h⟩
  | fault r => cases (run_of_fault (M := Sys2Proof.core) (k := k) hs).symm.trans h
  | refused r => cases (run_of_refused (M := Sys2Proof.core) (k := k) hs).symm.trans h

/-- A run of `k` steps and then of `j` is a run of `k + j`. -/
theorem reaches_add {k j : Nat} {s u t : State} (h : Reaches k s u) (h2 : Reaches j u t) : Reaches (k + j) s t := by
  induction k generalizing s with
  | zero => cases h; rw [Nat.zero_add]; exact h2
  | succ k ih =>
    obtain ⟨x, hx, hr⟩ := reaches_succ_iff.1 h
    rw [Nat.succ_add]
    exact reaches_succ hx (ih hr)

/-- A step takes the next event and leaves the agenda that goes with it. -/
theorem step_takes {s t : State} (h : step s = .next t) : ∃ e, s.upcoming = some (e, t.agenda) := by
  cases step_next h with
  | core r hu ht => subst ht; exact ⟨_, hu⟩
  | reset r hu ht => subst ht; exact ⟨_, hu⟩
  | elsewhere a r ha hw ht => subst ht; exact ⟨_, upcoming_event ha (elsewhere_not_stuck hw)⟩
  | read a r ha hadm _ ht => subst ht; exact ⟨_, by simpa using upcoming_event ha (admitted_not_stuck hadm)⟩
  | rejected a v r e ha hadm _ _ ht => subst ht; exact ⟨_, upcoming_event ha (admitted_not_stuck hadm)⟩
  | init a v r ha hadm _ _ _ _ ht => subst ht; exact ⟨_, upcoming_event ha (admitted_not_stuck hadm)⟩
  | accepted a v r _ _ ha hadm _ _ _ _ _ ht => subst ht; exact ⟨_, upcoming_event ha (admitted_not_stuck hadm)⟩
  | data a v r _ ha hadm _ _ _ ht => subst ht; exact ⟨_, upcoming_event ha (admitted_not_stuck hadm)⟩
  | ignored a v r ha hadm _ _ _ ht => subst ht; exact ⟨_, upcoming_event ha (admitted_not_stuck hadm)⟩

/-- The core's turn, as a step. -/
theorem step_core {s : State} {rest : List Event} (h : s.upcoming = some (.core, rest)) :
    step s = .next { s with agenda := rest, core := s.core.turn } := step_upcoming h

/-- A write to CMD, as a step. -/
theorem step_cmd (s : State) (rest : List Event) (v : Word) :
    step { s with agenda := wr 0x00 v :: rest } = ({ s with agenda := rest } : State).issueCommand v := by
  rw [step_wr _ _ _ _ (by decide) (by decide)]; rfl

/-- A write to DATAj, as a step. -/
theorem step_data (s : State) (rest : List Event) (j : Fin 16) (v : Word) :
    step { s with agenda := wr (0x40 + 4 * j) v :: rest } = .next (({ s with agenda := rest } : State).writeData j v) := by
  rw [step_wr _ _ _ _ (by omega) (by omega)]
  simp only [State.busWrite, dataIndex_register j j.isLt]
  rw [if_neg (by omega)]

/-- After its turn the core has no command in flight. -/
@[simp] theorem turn_busy (c : CoreState) : c.turn.busy = false := by
  unfold CoreState.turn
  split
  · unfold CoreState.complete; split <;> rfl
  · rename_i h; simpa using h

theorem readRegister_zero (c : CoreState) (off : Nat) (h : off < 4 ∨ (0x14 ≤ off ∧ off < 0x20) ∨ 0x80 ≤ off) :
    c.readRegister off = 0 := by
  simp only [CoreState.readRegister, digestIndex, dataIndex]
  rw [if_neg (by omega), if_neg (by omega), if_neg (by omega), if_neg (by omega), if_neg (by omega), if_neg (by omega)]

theorem readRegister_data (c : CoreState) (j : Fin 16) : c.readRegister (0x40 + 4 * j) = c.data[j] := by
  have hd : digestIndex (0x40 + 4 * j) = none := by simp only [digestIndex]; rw [if_neg (by omega)]
  simp only [CoreState.readRegister, dataIndex_register j j.isLt, hd]
  rw [if_neg (by omega), if_neg (by omega), if_neg (by omega), if_neg (by omega)]
  exact Vector_getD_eq _ _ j.isLt

theorem readRegister_digest (c : CoreState) (i : Fin 8) : c.readRegister (0x20 + 4 * i) = c.h[i] := by
  simp only [CoreState.readRegister, digestIndex_register i i.isLt]
  rw [if_neg (by omega), if_neg (by omega), if_neg (by omega), if_neg (by omega)]
  exact Vector_getD_eq _ _ i.isLt

end Sys2Proof.Machine
end

