-- ==== Sys2Proof/Tests/Slice0.lean ====
section
/-! SUPPORT. The model's own tests (expected values from spec/95_test_vectors.md and the rules' worked examples), and for each
statement with hypotheses a witness that meets them. -/

namespace Sys2Proof.Tests

open Sys2Proof.Machine Sys2Proof.Claims

/-! ### Small states -/

/-- An idle block after INIT whose DATA is all zero, the host silent. -/
def idle : State where
  core :=
    { h := initialDigest, wv := { a := 0, b := 0, c := 0, d := 0, e := 0, f := 0, g := 0, h := 0 },
      w := Vector.replicate 64 0, len := 0, blkcnt := 0, phase := .absorb, busy := false, pending := none,
      err := false, errcode := 0, data := Vector.replicate 16 0, pad := [] }
  agenda := []
  reads := []
  draws := 0

/-- `idle` with its block changed. -/
def idleWith (f : CoreState → CoreState) : State := { idle with core := f idle.core }

/-- `idle` after a FINAL has completed. -/
def done : State := idleWith fun c => { c with phase := .done }

/-- `idle` with a command in flight. -/
def inFlight (op : Op) (n : Fin 64) : State := idleWith fun c => { c with busy := true, pending := some (op, n) }

/-- `idle` with an error recorded. -/
def failed (code : BitVec 4) : State := idleWith fun c => { c with err := true, errcode := code }

/-- The state, with `e` the next event. -/
def before (e : Event) (s : State) : State := { s with agenda := e :: s.agenda }

/-- What a property says of the next state, where there is one. -/
def nextHas (p : State → Bool) : Host.Outcome State Fault Refusal → Bool
  | .next t => p t
  | .fault _ => false
  | .refused _ => false

/-- The machine stops under the fault `f`. -/
def stops (f : Fault) : Host.Outcome State Fault Refusal → Bool
  | .next _ => false
  | .fault g => decide (g = f)
  | .refused _ => false

theorem next_of_nextHas {p : State → Bool} {o : Host.Outcome State Fault Refusal} (h : nextHas p o = true) :
    ∃ t, o = .next t ∧ p t = true := by
  cases o with
  | next t => exact ⟨t, rfl, h⟩
  | fault f => cases h
  | refused r => cases h

/-! ### Well-formedness -/

theorem test_wellFormed_final_63 : (Instr.final 63).wellFormed = true := by decide

/-- R62: NBYTES is 6 bits wide. -/
theorem test_illFormed_final_64 : (Instr.final 64).wellFormed = false := by decide

/-! ### Decoding: words written out from 30_encoding.md R61 and R63, results from T-DEC -/

theorem test_decode_init : decode 0b000000000000000000_000000_00000_001 = .ok .init := by decide

theorem test_decode_block : decode 0b000000000000000000_000000_00000_010 = .ok .block := by decide

theorem test_decode_final_3 : decode 0b000000000000000000_000011_00000_011 = .ok (.final 3) := by decide

theorem test_decode_final_63 : decode 0b000000000000000000_111111_00000_011 = .ok (.final 63) := by decide

theorem test_decode_op_0_4_7 :
    [(0x00000000 : Word), 0x00000004, 0x00000007, 0x0000000F, 0xFFFFFFFF].map decode =
      List.replicate 5 (.error .illegalOpcode) := by decide

theorem test_decode_reserved :
    [(0x00000009 : Word), 0x00000101, 0x00000102, 0x00004003, 0x0000FF03, 0x80000002].map decode =
      List.replicate 6 (.error .reservedBits) := by decide

theorem test_encode : [Instr.init, .block, .final 0, .final 3, .final 56, .final 63].map encode =
    [0x00000001, 0x00000002, 0x00000003, 0x00000303, 0x00003803, 0x00003F03] := by decide

theorem test_decodeTableWord : decodeTableWord 32 0x00000001 = some .init ∧ decodeTableWord 32 0x00000002 = some .block ∧
    decodeTableWord 32 0x00000303 = some (.final 3) ∧ decodeTableWord 32 0 = none ∧
    decodeTableWord 40 0x00000001 = none := by decide

/-! ### Datapath: rows of T-FN and T-PIPE -/

theorem test_rotr : rotr 0x12345678 16 = 0x56781234 ∧ rotr 0x00000001 31 = 0x00000002 := by decide

theorem test_shr : shr 0xFFFFFFFF 10 = 0x003FFFFF ∧ shr 0x80000000 10 = 0x00200000 := by decide

theorem test_ch_maj : ch 0xF0F0F0F0 0xFFFF0000 0x0000FFFF = 0xF0F00F0F ∧
    maj 0xFF00FF00 0xF0F0F0F0 0xCCCCCCCC = 0xFCC0FCC0 := by decide

theorem test_sigmas : bsig0 0x12345678 = 0x66146474 ∧ bsig1 0x12345678 = 0x3561ABDA ∧
    ssig0 0x12345678 = 0xE7FCE6EE ∧ ssig1 0x12345678 = 0xA1F78649 := by decide

/-- R78: wrapping sums. -/
theorem test_add32 : (0x12345678 : Word) + 0x9ABCDEF0 = 0xACF13568 ∧ (0xFFFFFFFF : Word) + 1 = 0 ∧
    (0xFFFFFFFF : Word) + 0xFFFFFFFF + 0xFFFFFFFF + 0xFFFFFFFF + 0xFFFFFFFF = 0xFFFFFFFB := by decide

/-- T-PIPE-1. -/
theorem test_pack : packWord countingBlock 0 = 0x00010203 ∧ packWord countingBlock 15 = 0x3C3D3E3F := by decide

/-- T-PIPE-2, rows 32 and 56. -/
theorem test_schedule : (scheduleOf abcBlock).getD 32 0 = 0x93F5997F ∧ (scheduleOf abcBlock).getD 63 0 = 0x12B1EDEB := by
  decide +kernel

/-- T-PIPE-3, round 0. -/
theorem test_round : (roundOnce (scheduleOf abcBlock) 0 (loadWorking initialDigest)).a = 0x5D6AEBCD ∧
    (roundOnce (scheduleOf abcBlock) 0 (loadWorking initialDigest)).e = 0xFA2A4622 := by decide +kernel

/-- T-PIPE-4. -/
theorem test_compress : (compress initialDigest abcBlock).toList =
    [0xBA7816BF, 0x8F01CFEA, 0x414140DE, 0x5DAE2223, 0xB00361A3, 0x96177A9C, 0xB410FF61, 0xF20015AD] := by
  decide +kernel

/-- T-PAD-2, n = 55 and n = 63. -/
theorem test_padBlocks : padBlocks (List.replicate 55 0x61) 0x1B8 =
      [List.replicate 55 0x61 ++ [0x80, 0, 0, 0, 0, 0, 0, 0x01, 0xB8]] ∧
    padBlocks (List.replicate 63 0x61) 0x1F8 =
      [List.replicate 63 0x61 ++ [0x80], List.replicate 56 0 ++ [0, 0, 0, 0, 0, 0, 0x01, 0xF8]] := by decide

/-- R155. -/
theorem test_hex8 : hex8 0x0000ABCD = ['0', '0', '0', '0', 'a', 'b', 'c', 'd'] := by decide

/-! ### INIT -/

/-- R130 and T-CMD-5: INIT in phase DONE, with an error recorded and DATA and counters not zero. -/
theorem test_init :
    nextHas (fun t => t.core.h.toList == [0x6A09E667, 0xBB67AE85, 0x3C6EF372, 0xA54FF53A, 0x510E527F, 0x9B05688C, 0x1F83D9AB,
        0x5BE0CD19] && t.core.len == 0 && t.core.blkcnt == 0 && t.core.status == 0 && t.core.data.getD 15 0 == 7)
      (exec .init (idleWith fun c => { c with h := Vector.replicate 8 1, len := 0x1C0, blkcnt := 2, phase := .done,
                                               err := true, errcode := 3, data := Vector.replicate 16 7 })) = true := by
  decide

/-- T-ERR, row 4: INIT while busy is rejected with BUSY_CMD. -/
theorem test_init_busy : nextHas (fun t => t.core.status == 0x00000045 && t.core.pending == some (.block, 0))
    (exec .init (inFlight .block 0)) = true := by decide

/-! ### BLOCK -/

/-- T-ERR, rows 1 and 2: BLOCK in phase DONE, and while busy. -/
theorem test_block_rejected : nextHas (fun t => t.core.status == 0x00000036) (exec .block done) = true ∧
    nextHas (fun t => t.core.status == 0x00000045) (exec .block (inFlight .block 0)) = true := by decide

/-- T-PIPE-5, T-CMD-1 (LEN wraps) and T-CMD-3 (BLKCNT wraps): the completion of a BLOCK of the bytes 0x00..0x3F. -/
theorem test_block_completes :
    nextHas (fun t => t.core.h.toList == [0xFC99A2DF, 0x88F42A7A, 0x7BB9D180, 0x33CDC6A2, 0x0256755F, 0x9D5B9A50, 0x44A9CC31,
        0x5ABE84A7] && t.core.len == 0 && t.core.blkcnt == 0 && t.core.status == 0)
      (step { inFlight .block 0 with core := { (inFlight .block 0).core with
        len := 0xFFFFFFFFFFFFFE00, blkcnt := 0xFFFFFFFF, data := Vector.ofFn fun j => packWord countingBlock j } }) = true := by
  decide +kernel

/-! ### FINAL -/

/-- T-CMD-2: the completion of FINAL 1 where LEN wraps, DATA = 0. -/
theorem test_final_1_completes :
    nextHas (fun t => renderDigest t.core.h == "8bc81336e363eb4cea551bf21bbcf1dc421bf2988a59576058d418054dcdcff9".toList &&
        t.core.len == 0 && t.core.blkcnt == 1 && t.core.status == 2)
      (step { inFlight .final 1 with core := { (inFlight .final 1).core with len := 0xFFFFFFFFFFFFFFF8 } }) = true := by
  decide +kernel

/-- T-DIG, 0x61 x 56: two blocks; T-CMD-4: BLKCNT wraps by 2. -/
theorem test_final_56_completes :
    nextHas (fun t => renderDigest t.core.h == "b35439a4ac6f0948b6d6f9e3c6af0f5f590ce20f1bde7090ef7970686ec6738a".toList &&
        t.core.len == 0x1C0 && t.core.blkcnt == 1 && t.core.status == 2 && t.core.pad == [])
      (step { inFlight .final 56 with core := { (inFlight .final 56).core with
        blkcnt := 0xFFFFFFFF, data := Vector.replicate 16 0x61616161 } }) = true := by decide +kernel

/-! ### Host accesses -/

/-- T-ERR, row 3: a DATA write while busy. -/
theorem test_data_write_busy : nextHas (fun t => t.core.status == 0x00000055 && t.core.data.getD 0 0 == 0)
    (step (before (wr 0x40 0x12345678) (inFlight .block 0))) = true := by decide

/-- T-CMD-6: a DATA write in phase DONE. -/
theorem test_data_write_done : nextHas (fun t => t.core.data.getD 0 0 == 0xDEADBEEF && t.core.h == initialDigest)
    (step (before (wr 0x40 0xDEADBEEF) done)) = true := by decide

/-- P5: the first error is kept, and T-ERR, row 5: BUSY_CMD comes before ILLEGAL_OPCODE. -/
theorem test_first_error_kept : nextHas (fun t => t.core.status == 0x00000024) (step (before (wr 0x00 0) (failed 2))) = true ∧
    nextHas (fun t => t.core.status == 0x00000045) (step (before (wr 0x00 8) (inFlight .block 0))) = true := by decide

/-- R146: LEN_HI, DATA15, DIGEST7 and a reserved offset. -/
theorem test_reads :
    nextHas (fun t => t.reads == [0x00000012]) (step (before (rd 0x0C) (idleWith fun c => { c with len := 0x1234567890 }))) = true ∧
    nextHas (fun t => t.reads == [7]) (step (before (rd 0x7C) (idleWith fun c => { c with data := c.data.set 15 7 }))) = true ∧
    nextHas (fun t => t.reads == [0x5BE0CD19]) (step (before (rd 0x3C) idle)) = true ∧
    nextHas (fun t => t.reads == [0]) (step (before (rd 0xFC) idle)) = true := by decide

/-- R45: an 8-bit access and an unaligned one. -/
theorem test_stuck :
    stops .outsideContract (step (before (.access { off := 4, width := 8, op := .read }) idle)) = true ∧
    stops .outsideContract (step (before (.access { off := 6, width := 32, op := .write 0 }) idle)) = true := by decide

/-- R42: an access past the window leaves the block alone. -/
theorem test_elsewhere :
    nextHas (fun t => t == idle) (step (before (.access { off := 0x101, width := 8, op := .write 7 }) idle)) = true := by decide

/-- R45 and R134: the host is stuck while a command is in flight; the command completes and the access stays without a step. -/
theorem test_stuck_command_completes :
    nextHas (fun t => t.core.busy == false && t.core.blkcnt == 1 && t.agenda.length == 1)
      (step (before (.access { off := 4, width := 8, op := .read }) (inFlight .block 0))) = true := by decide +kernel

/-- R42: BASE and BASE + 0xFF are in the window, BASE + 0x100 and BASE - 1 are not. -/
theorem test_windowOffset : windowOffset 0x4000 0x4000 = some 0 ∧ windowOffset 0x4000 0x40FF = some 0xFF ∧
    windowOffset 0x4000 0x4100 = none ∧ windowOffset 0x4000 0x3FFF = none := by decide

/-- T-DEC, STATUS after the write from reset: FINAL 3, and an illegal word. -/
theorem test_fetch_from_reset :
    nextHas (fun t => t.core.status == 0x00000001 && t.core.pending == some (.final, 3))
      (step (State.reset.withFetchWord 32 0x00000303)) = true ∧
    nextHas (fun t => t.core.status == 0x00000014) (step (State.reset.withFetchWord 32 0)) = true := by decide

/-- T-RST: reset while a command is in flight. -/
theorem test_reset : nextHas (fun t => t.core.status == 0 && t.core.len == 0 && t.core.h == initialDigest &&
      t.core.pending == none)
    (step (before .reset (idleWith fun c => { c with busy := true, pending := some (.final, 9), len := 512 }))) = true := by
  decide

/-! ### Witnesses: states and operands that meet the hypotheses of each statement together -/

theorem witness_EncodeAndDecodeAgree : (Instr.final 63).WellFormed ∧ (Instr.final 0).WellFormed ∧ Instr.block.WellFormed ∧
    decode 0x00003F03 = .ok (.final 63) ∧ decode 0x00000001 = .ok .init := by decide

theorem witness_IllegalWordRecordsItsCode : idle.core.busy = false ∧ opOf 0x00000000 = 0 ∧ 4 ≤ opOf 0x0000000C ∧
    4 ≤ opOf 0xFFFFFFFF ∧ (opOf 0x00000009 = 1 ∧ rsv0Of 0x00000009 ≠ 0) ∧ (opOf 0x00004003 = 3 ∧ rsv1Of 0x00004003 ≠ 0) ∧
    (opOf 0x00000102 = 2 ∧ nbytesOf 0x00000102 ≠ 0) := by decide

theorem witness_RotrMovesEachBit : (1 ≤ 1 ∧ 1 ≤ 31 ∧ 0 < 32) ∧ (1 ≤ 31 ∧ 31 ≤ 31 ∧ 31 < 32) ∧ rotr 0x80000001 31 = rotr 0x80000001 31 := by decide

theorem witness_ShrFillsWithZeros : 0 < 32 ∧ 31 < 32 := by decide

theorem witness_ChChoosesAndMajVotes : 0 < 32 ∧ 31 < 32 := by decide

theorem witness_SigmaFunctionsBitByBit : 0 < 32 ∧ 31 < 32 := by decide

theorem witness_PackIsBigEndian : countingBlock.length = 64 ∧ abcBlock.length = 64 := by decide

theorem witness_PackedDataIsData : (0 < 16 ∧ 15 < 16) ∧ 3 < 4 := by decide

theorem witness_ScheduleRecurrence : (∀ t, t < 16 → idle.core.w.getD t 0 = 0) ∧ (16 ≤ 16 ∧ 63 < 64) := by
  refine ⟨?_, by decide⟩
  decide

theorem witness_RoundAssignsSimultaneously : (0 < 64 ∧ 63 < 64) ∧
    ∃ v, v = roundOnce (scheduleOf abcBlock) 0 (loadWorking initialDigest) := ⟨by decide, _, rfl⟩

theorem witness_SixtyFourRoundsInOrder : ∃ f : Nat → Working, f 0 = idle.core.wv ∧
    ∀ t, t < 64 → f (t + 1) = roundOnce idle.core.w t (f t) :=
  ⟨fun t => forRange 0 t (roundOnce idle.core.w) idle.core.wv, forRange_zero _ _ _, fun t _ => by
    show forRange 0 (t + 1) _ _ = _
    rw [forRange_succ, Nat.zero_add]⟩

theorem witness_AccumulateAddsEachWord : ∃ c : CoreState, c.h[0] = 0x6A09E667 ∧ c.wv.a = 0x506E3058 :=
  ⟨{ idle.core with wv := { idle.core.wv with a := 0x506E3058 } }, by decide, rfl⟩

theorem witness_CoreCompressionIsCompress : abcBlock.length = 64 := by decide

theorem witness_LengthFieldIsBigEndian : ([] : List Byte).length < 64 ∧ (List.replicate 63 (0 : Byte)).length < 64 ∧
    (padBlocks (List.replicate 55 0) 0x1B8).getLast? = some (List.replicate 55 0 ++ [0x80] ++ [0, 0, 0, 0, 0, 0, 0x01, 0xB8]) ∧
    (padBlocks (List.replicate 56 0) 0x1C0).getLast? = some (List.replicate 56 0 ++ [0, 0, 0, 0, 0, 0, 0x01, 0xC0]) := by decide

theorem witness_PaddedMessageShape : (([] : List Byte).length + 1 + 55) % 64 = 56 := by decide

theorem witness_PadFinalEffect : (0 < 64 ∧ 55 < 64 ∧ 56 < 64 ∧ 63 < 64) ∧ (finalBlocks (bufferBytes idle.core.data 55) 440).length = 1 ∧
    (finalBlocks (bufferBytes idle.core.data 56) 448).length = 2 := by decide

theorem witness_RoomForTheLength : (List.replicate 55 (0 : Byte)).length < 64 ∧ 64 - (55 + 1) ≥ 8 ∧ ¬ 64 - (56 + 1) ≥ 8 := by
  decide

theorem witness_FinalIgnoresLaterBytes : ∃ c c' : CoreState, c.data ≠ c'.data ∧ c.h = c'.h ∧ c.len = c'.len ∧
    c.blkcnt = c'.blkcnt ∧ ∀ k, k < 3 → dataByte c.data k = dataByte c'.data k :=
  ⟨{ idle.core with data := idle.core.data.set 0 0x61626300 }, { idle.core with data := idle.core.data.set 0 0x61626399 },
    by decide, rfl, rfl, rfl, by decide⟩

theorem witness_HashSequenceGivesSha256 : done.core.busy = false ∧ (failed 3).core.busy = false := by decide

theorem witness_InitStartsHash : done.core.busy = false ∧ (inFlight .block 0).core.busy = true ∧
    (opOf 0x00000101 = 1 ∧ (0x00000101 : Word) ≠ 0x00000001) ∧ ∃ t, exec .init done = .next t :=
  ⟨rfl, rfl, by decide, _, rfl⟩

theorem witness_AcceptanceOnlyPends : idle.core.busy = false ∧ idle.core.phase = .absorb := by decide

theorem witness_BlockAbsorbsTheBuffer : (idle.core.busy = false ∧ idle.core.phase = .absorb ∧
      (inFlight .block 0).upcoming = some (.core, [])) ∧
    (before (.access { off := 2, width := 32, op := .read }) (inFlight .block 0)).upcoming =
      some (.core, [.access { off := 2, width := 32, op := .read }]) ∧ (inFlight .final 63).core.busy = true ∧
    (done.core.busy = false ∧ done.core.phase = .done) ∧ (opOf 0x00000102 = 2 ∧ (0x00000102 : Word) ≠ 0x00000002) :=
  ⟨⟨rfl, rfl, rfl⟩, rfl, rfl, ⟨rfl, rfl⟩, by decide⟩

theorem witness_FinalPadsAndFinishes : (idle.core.busy = false ∧ idle.core.phase = .absorb ∧
      (before .core (inFlight .final 63)).upcoming = some (.core, [])) ∧
    (inFlight .block 0).core.busy = true ∧ (done.core.busy = false ∧ done.core.phase = .done) ∧
    (opOf 0x0000000B = 3 ∧ rsv0Of 0x0000000B ≠ 0) ∧ (opOf 0x0000FF03 = 3 ∧ rsv1Of 0x0000FF03 ≠ 0) :=
  ⟨⟨rfl, rfl, rfl⟩, rfl, ⟨rfl, rfl⟩, by decide, by decide⟩

theorem witness_UnencodableFinalRefused : 64 ≤ 64 := by decide

theorem witness_CommandChecksInOrder : (inFlight .block 0).core.busy = true ∧ idle.core.busy = false ∧
    ¬ (1 ≤ opOf 0x00000004 ∧ opOf 0x00000004 ≤ 3) ∧ (1 ≤ opOf 0x00000101 ∧ opOf 0x00000101 ≤ 2 ∧ nbytesOf 0x00000101 ≠ 0) ∧
    (opOf 0x00000303 = 3 ∧ rsv0Of 0x00000303 = 0 ∧ rsv1Of 0x00000303 = 0) ∧
    (opOf 0x00000002 = 2 ∧ nbytesOf 0x00000002 = 0) ∧ done.core.phase = .done ∧ idle.core.phase = .absorb := by decide

theorem witness_StepRunsTheDecodedCommand : idle.core.busy = false ∧ decode 0x00003F03 = .ok (.final 63) ∧
    decodeTableWord 32 0x00000002 = some .block ∧ (inFlight .final 0).core.busy = true := by decide

theorem witness_CommandFrame : (∃ t, exec .init done = .next t) ∧ (∃ t, exec .block idle = .next t) ∧
    (∃ t, exec (.final 63) idle = .next t) ∧ ∃ t, exec (.final 0) done = .next t :=
  ⟨⟨_, rfl⟩, ⟨_, rfl⟩, ⟨_, rfl⟩, ⟨_, rfl⟩⟩

theorem witness_IdleBlockHolds : done.core.busy = false ∧ done.agenda = [] := by decide

theorem witness_CommandCompletes : (before (rd 0x04) (inFlight .final 63)).core.busy = true ∧
    (before (rd 0x06) (inFlight .block 0)).core.busy = true := by decide

theorem witness_ReadsReturnTheRegisters : done.core.busy = false ∧ (0x80 ≤ 0x80 ∧ 0xFC ≤ 0xFC ∧ 0xFC % 4 = 0) := by decide

theorem witness_StatusWord : (done.core.err = false ∧ done.core.errcode = 0 ∧ done.core.phase = .done ∧ done.core.busy = false) ∧
    (idle.core.err = false ∧ idle.core.phase = .absorb ∧ idle.core.busy = false) ∧
    ((inFlight .block 0).core.err = false ∧ (inFlight .block 0).core.phase = .absorb ∧ (inFlight .block 0).core.busy = true) ∧
    (∃ c : CoreState, c.err = true ∧ c.errcode = 3 ∧ c.phase = .done ∧ c.busy = false) :=
  ⟨by decide, by decide, by decide, { (failed 3).core with phase := .done }, rfl, rfl, rfl, rfl⟩

theorem witness_BusyReadsAreFree : (inFlight .block 0).core.busy = true ∧ ∃ i : Fin 8, 0x3C = 0x20 + 4 * (i : Nat) :=
  ⟨rfl, 7, rfl⟩

theorem witness_DataWrites : (inFlight .block 0).core.busy = true ∧ done.core.busy = false ∧ 63 / 4 = ((15 : Fin 16) : Nat) := by
  decide

theorem witness_OtherWritesIgnored : ∀ off ∈ [0x04, 0x10, 0x14, 0x1C, 0x20, 0x3C, 0x80, 0xFC], off % 4 = 0 ∧
    (off = 0x04 ∨ off = 0x08 ∨ off = 0x0C ∨ off = 0x10 ∨ (0x20 ≤ off ∧ off ≤ 0x3C) ∨ (0x14 ≤ off ∧ off ≤ 0x1C) ∨
      (0x80 ≤ off ∧ off ≤ 0xFC)) := by decide

theorem witness_AddressDecode : 0x100 ≤ (Access.mk 0x100 8 .read).off ∧ validBase 0x4000 = true ∧ validBase 0 = true ∧ (0x4000 ≤ 0x40FF ∧ 0x40FF < 0x4000 + 0x100) ∧
    ¬ (0x4000 ≤ 0x4100 ∧ 0x4100 < 0x4000 + 0x100) := by decide

/-- An access the host is stuck at: unaligned. -/
def unaligned : Access := { off := 0xFE, width := 32, op := .read }

/-- An access the host is stuck at: of 8 bits. -/
def narrow : Access := { off := 0x00, width := 8, op := .write 1 }

theorem witness_AccessOutsideContractIsStuck : (HostStuckAt unaligned ∧ HostStuckAt narrow) ∧
    (before (.access narrow) idle).agenda = .access narrow :: ([] : List Access).map .access ∧
    ((before (.access unaligned) idle).core.busy = false ∧ (before (.access unaligned) (inFlight .block 0)).core.busy = true) ∧
    (before (.access unaligned) (before (rd 0x04) (before .core (before (rd 0x20) (before .reset idle))))).agenda =
      .access unaligned :: ([{ off := 0x04, width := 32, op := .read }].map .access ++ .core :: [rd 0x20, .reset]) ∧
    (before (.access narrow) (before .reset idle)).agenda = .access narrow :: (([] : List Access).map .access ++ .reset :: []) ∧
    step (before (.access narrow) idle) = .fault .outsideContract :=
  ⟨⟨by unfold HostStuckAt; decide, by unfold HostStuckAt; decide⟩, rfl, ⟨rfl, rfl⟩, rfl, rfl, rfl⟩

theorem witness_WhoMovesNext : (HostStuckAt unaligned ∧ ¬ HostStuckAt { off := 0x100, width := 8, op := .read } ∧
      ¬ HostStuckAt { off := 0xFC, width := 32, op := .read }) ∧ idle.agenda = [] ∧ (before .core idle).agenda = [.core] ∧
    (before .reset idle).agenda = [.reset] ∧ (before (rd 0xFC) idle).agenda = [rd 0xFC] ∧
    (before (.access unaligned) (before .reset idle)).agenda = .access unaligned :: (([] : List Access).map .access ++ [.reset]) := by
  refine ⟨?_, rfl, rfl, rfl, rfl, rfl⟩
  unfold HostStuckAt
  decide

theorem witness_AdmittedEventsNeverStop : (before (.access unaligned) (inFlight .block 0)).core.busy = true ∧
    ∀ a rest, (before (wr 0xFC 0) idle).agenda = .access a :: rest → ¬ HostStuckAt a := by
  refine ⟨rfl, fun a rest h => ?_⟩
  cases h
  unfold HostStuckAt
  decide

/-- The accumulator's clause (a FINAL 63, two blocks), INIT's and reset's. -/
theorem witness_OnlyThreeWritersOfTheDigest :
    (∃ t, step (inFlight .final 63) = .next t ∧ decide (t.core.h ≠ (inFlight .final 63).core.h) = true) ∧
    (∃ t, step (before (wr 0x00 1) (idleWith fun c => { c with h := Vector.replicate 8 0 })) = .next t ∧
      decide (t.core.h ≠ Vector.replicate 8 0) = true) ∧
    (∃ t, step (before .reset (idleWith fun c => { c with h := Vector.replicate 8 0 })) = .next t ∧
      decide (t.core.h ≠ Vector.replicate 8 0) = true) :=
  ⟨next_of_nextHas (p := fun t => decide (t.core.h ≠ (inFlight .final 63).core.h)) (by decide +kernel),
    next_of_nextHas (p := fun t => decide (t.core.h ≠ Vector.replicate 8 0)) (by decide +kernel),
    next_of_nextHas (p := fun t => decide (t.core.h ≠ Vector.replicate 8 0)) (by decide +kernel)⟩

theorem witness_OnlyHostWritesChangeData : ∃ t, step (before (wr 0x7C 7) idle) = .next t ∧
    decide (t.core.data ≠ idle.core.data) = true :=
  next_of_nextHas (p := fun t => decide (t.core.data ≠ idle.core.data)) (by decide)

/-- A further error, and INIT. -/
theorem witness_OnlyInitAndResetClearErrors : (failed 5).core.err = true ∧ (∃ t, step (before (wr 0x00 0) (failed 5)) = .next t) ∧
    (∃ t, step (before (wr 0x00 1) (failed 5)) = .next t) ∧ ∃ t, step (before .reset (failed 5)) = .next t :=
  ⟨rfl, ⟨_, rfl⟩, ⟨_, rfl⟩, ⟨_, rfl⟩⟩

/-- The boundary codes: 1 by CMD and 5 by DATA. -/
theorem witness_ErrorsArePrecise :
    (idle.core.err = false ∧ ∃ t, step (before (wr 0x00 0) idle) = .next t ∧ t.core.err = true) ∧
    (inFlight .block 0).core.err = false ∧ ∃ t, step (before (wr 0x7C 0) (inFlight .block 0)) = .next t ∧ t.core.err = true :=
  ⟨⟨rfl, _, rfl, rfl⟩, rfl, _, rfl, rfl⟩

theorem witness_HostCannotDisturbACommand : (inFlight .block 0).core.busy = true ∧
    ¬ HostStuckAt { off := 0x40, width := 32, op := .write 7 } ∧
    ∃ t, step (before (wr 0x40 7) (inFlight .block 0)) = .next t := ⟨rfl, by unfold HostStuckAt; decide, _, rfl⟩

theorem witness_CommandAbsorbsDataOfAcceptance : idle.core.busy = false ∧ idle.core.phase = .absorb ∧
    ∀ a ∈ [({ off := 0x40, width := 32, op := .write 7 } : Access), { off := 0x00, width := 32, op := .write 1 }],
      ¬ HostStuckAt a := by
  unfold HostStuckAt
  decide

theorem witness_BusyUntilCompletion : (inFlight .block 0).core.busy = true ∧
    (∃ t, step (before (rd 0x04) (inFlight .block 0)) = .next t) ∧ (∃ t, step (before .core (inFlight .block 0)) = .next t) ∧
    ∃ t, step (before .reset (inFlight .block 0)) = .next t := ⟨rfl, ⟨_, rfl⟩, ⟨_, rfl⟩, ⟨_, rfl⟩⟩

theorem done_inv : done.Inv := ⟨rfl, fun _ h => (by cases h), by decide, by decide, fun h => (by cases h), rfl, by decide⟩

theorem witness_DigestKeptUntilInit : (done.core.busy = false ∧ done.core.phase = .done) ∧ done.Inv ∧
    (∃ t, step (before (wr 0x00 2) done) = .next t) ∧ ∃ t, step (before (wr 0x00 1) done) = .next t :=
  ⟨⟨rfl, rfl⟩, done_inv, ⟨_, rfl⟩, ⟨_, rfl⟩⟩

theorem witness_ResetSetsTheWholeState : AfterReset idle.core ∧ (0x1C % 4 = 0 ∧ 0x1C < 0x20) ∧ (0x80 % 4 = 0 ∧ 0x80 ≤ 0x80) :=
  ⟨rfl, by decide, by decide⟩

/-- The invariant of a busy state, and a step of it. -/
theorem witness_EveryStepKeepsInvariant : (inFlight .final 63).Inv ∧ ∃ t, step (inFlight .final 63) = .next t :=
  ⟨⟨rfl, fun _ h => (by cases h), by decide, by decide, fun _ => rfl, rfl, by decide⟩, _, rfl⟩

end Sys2Proof.Tests
end

section
/-! PROOF. The invariant: one lemma for each operation that writes the block, then the reset state and every step. -/

namespace Sys2Proof.Machine

/-! ### LEN stays a whole number of bytes -/

theorem eight_dvd_lenAfter {len : Word64} (n : Nat) (h : 8 ∣ len.toNat) : 8 ∣ (lenAfter len n).toNat := by
  simp only [lenAfter, BitVec.toNat_add, BitVec.toNat_ofNat]
  omega

/-! ### Each operation keeps the invariant -/

section
variable {c : CoreState}

/-- With no command in flight the clauses about PENDING and PHASE hold of themselves. -/
theorem CoreState.inv_of_idle (hbusy : c.busy = false) (hpend : c.pending = none) (herr : c.err = false ↔ c.errcode = 0)
    (hcode : c.errcode.toNat ≤ 5) (hpad : c.pad = []) (hlen : 8 ∣ c.len.toNat) : c.Inv where
  busy_iff_pending := by simp [hbusy, hpend]
  block_pends_zero := by simp [hpend]
  err_iff_code := herr
  code_le_five := hcode
  busy_absorb := by simp [hbusy]
  pad_empty := hpad
  len_whole_bytes := hlen

theorem CoreState.reset_inv (n : Nat) : (CoreState.reset n).Inv := by
  apply CoreState.inv_of_idle <;> simp

/-- No recorded cause has the code 0 of "no error" (60_exceptions.md R161). -/
theorem ErrorCause.code_ne_zero (e : ErrorCause) : e.code ≠ 0 := by
  cases e <;> decide

theorem ErrorCause.code_le_five (e : ErrorCause) : e.code.toNat ≤ 5 := by
  cases e <;> decide

theorem CoreState.Inv.recordError (h : c.Inv) (e : ErrorCause) : (c.recordError e).Inv := by
  cases herr : c.err with
  | false => exact { h with
      err_iff_code := by simpa [herr] using e.code_ne_zero
      code_le_five := by simpa [herr] using e.code_le_five }
  | true =>
    have hcode : c.errcode ≠ 0 := fun h0 => by simp [h.err_iff_code.2 h0] at herr
    exact { h with
      err_iff_code := by simpa [herr] using hcode
      code_le_five := by simpa [herr] using h.code_le_five }

theorem CoreState.Inv.accept (h : c.Inv) {op : Op} {n : Fin 64} (hn : op = .block → n = 0) (hphase : c.phase = .absorb) :
    (c.accept op n).Inv :=
  { h with
    busy_iff_pending := rfl
    block_pends_zero := fun m hm => by cases hm; exact hn rfl
    busy_absorb := fun _ => hphase }

theorem CoreState.Inv.startHash (h : c.Inv) : c.startHash.Inv :=
  { h with
    err_iff_code := by simp
    code_le_five := by simp
    busy_absorb := fun _ => rfl
    len_whole_bytes := by simp }

theorem CoreState.Inv.setData (h : c.Inv) (j : Nat) (v : Word) : (c.setData j v).Inv := { h with }

/-- The completion step keeps the invariant, whichever command pends (43_commands.md R131 to R133). -/
theorem CoreState.Inv.turn (h : c.Inv) : c.turn.Inv := by
  cases hbusy : c.busy with
  | false => rwa [turn_idle c hbusy]
  | true =>
    obtain ⟨⟨op, n⟩, hpend⟩ := Option.isSome_iff_exists.1 (h.busy_iff_pending ▸ hbusy)
    cases op with
    | block =>
      rw [turn_block c n hbusy hpend]
      exact CoreState.inv_of_idle rfl rfl h.err_iff_code h.code_le_five h.pad_empty (eight_dvd_lenAfter 64 h.len_whole_bytes)
    | final =>
      rw [turn_final c n hbusy hpend]
      apply CoreState.inv_of_idle
      case hlen => simpa using eight_dvd_lenAfter n h.len_whole_bytes
      all_goals simp [h.err_iff_code, h.code_le_five]

end

/-! ### The obligations -/

/-- Settles O55: reset leaves no command in flight, no error, and LEN and PAD empty. -/
theorem resetMeetsInvariant : Obligations.ResetMeetsInvariant := CoreState.reset_inv 0

/-- Settles O56, by the cases of what a step can do: each is one of the operations above, or leaves the block alone. -/
theorem everyStepKeepsInvariant : Obligations.EveryStepKeepsInvariant := by
  intro s t hinv hstep
  change t.core.Inv
  replace hinv : s.core.Inv := hinv
  cases step_next hstep with
  | core _ _ ht => subst ht; exact hinv.turn
  | reset _ _ ht => subst ht; exact CoreState.reset_inv _
  | elsewhere _ _ _ _ ht => subst ht; exact hinv
  | read _ _ _ _ _ ht => subst ht; simpa using hinv
  | rejected _ _ _ e _ _ _ _ ht => subst ht; exact hinv.recordError e
  | init _ _ _ _ _ _ _ _ _ ht => subst ht; exact hinv.startHash
  | accepted _ _ _ op n _ _ _ _ _ hphase hcmd ht =>
    subst ht
    refine hinv.accept (fun hop => ?_) hphase
    obtain ⟨_, hn, _⟩ | ⟨hfinal, _⟩ := hcmd
    · exact hn
    · rw [hop] at hfinal; cases hfinal
  | data _ v _ j _ _ _ _ _ ht => subst ht; exact hinv.setData j v
  | ignored _ _ _ _ _ _ _ _ ht => subst ht; exact hinv

end Sys2Proof.Machine
end

section
/-! PROOF. Which events write the digest H and the buffer DATA (10_state.md R15, R25). -/

open Sys2Proof.Claims

namespace Sys2Proof.Machine

/-! ### Writing an entry of a vector -/

theorem setIfInBounds_eq_set {n : Nat} (w : Vector Word n) {j : Nat} (v : Word) (hj : j < n) :
    w.setIfInBounds j v = w.set j v := by
  ext i hi : 1
  rw [Vector.getElem_setIfInBounds, Vector.getElem_set]

/-! ### The registers a write of the host names -/

/-- An admitted write is one line WR of a host program, at a multiple of 4 (20_memory.md R45, 30_encoding.md R67). -/
theorem admitted_write {a : Access} {v : Word} (hadm : a.admitted = true) (hop : a.op = .write v) :
    Event.access a = wr a.off v ∧ a.off % 4 = 0 := by
  obtain ⟨off, width, op⟩ := a
  simp only [Access.admitted, Access.inContract, Bool.and_eq_true, decide_eq_true_eq] at hadm hop
  obtain ⟨⟨rfl, halign⟩, -⟩ := hadm
  subst hop
  exact ⟨rfl, halign⟩

/-- An aligned offset that names DATA[j] is the offset of its register (10_state.md R30). -/
theorem off_of_dataIndex {off j : Nat} (halign : off % 4 = 0) (h : dataIndex off = some j) : j < 16 ∧ off = 0x40 + 4 * j := by
  obtain ⟨hlow, hhigh, rfl⟩ := dataIndex_eq_some.1 h
  omega

/-! ### The fields of a command word as numbers (30_encoding.md R61) -/

theorem fieldOp_toNat (v : Word) : (fieldOp v).toNat = opOf v := by
  simp [fieldOp, opOf]

theorem fieldRsv0_toNat (v : Word) : (fieldRsv0 v).toNat = rsv0Of v := by
  simp [fieldRsv0, rsv0Of, Nat.shiftRight_eq_div_pow]

theorem fieldNbytes_toNat (v : Word) : (fieldNbytes v).toNat = nbytesOf v := by
  simp [fieldNbytes, nbytesOf, Nat.shiftRight_eq_div_pow]

theorem fieldRsv1_toNat (v : Word) : (fieldRsv1 v).toNat = rsv1Of v := by
  simp only [fieldRsv1, rsv1Of, BitVec.extractLsb'_toNat, Nat.shiftRight_eq_div_pow]
  omega

/-- A word whose reserved fields are 0 is the number its OP and NBYTES spell. -/
theorem toNat_eq_of_rsv_zero {v : Word} (h0 : fieldRsv0 v = 0) (h1 : fieldRsv1 v = 0) :
    v.toNat = (fieldOp v).toNat + 256 * (fieldNbytes v).toNat := by
  replace h0 : rsv0Of v = 0 := by simp [← fieldRsv0_toNat, h0]
  replace h1 : rsv1Of v = 0 := by simp [← fieldRsv1_toNat, h1]
  rw [fieldOp_toNat, fieldNbytes_toNat]
  simp only [rsv0Of, rsv1Of, opOf, nbytesOf] at *
  omega

/-- A word with the meaning INIT passed every check of the decoder (30_encoding.md R64). -/
theorem fields_of_decode_init {v : Word} (h : decode v = .ok .init) :
    fieldOp v = 1 ∧ fieldNbytes v = 0 ∧ fieldRsv0 v = 0 ∧ fieldRsv1 v = 0 := by
  unfold decode at h
  split_ifs at h with hop hrsv hn hinit <;> simp_all

/-- INIT has one word (30_encoding.md R63). -/
theorem eq_one_of_decode_init {v : Word} (h : decode v = .ok .init) : v = 0x00000001 := by
  obtain ⟨hop, hn, h0, h1⟩ := fields_of_decode_init h
  apply BitVec.eq_of_toNat_eq
  simp [toNat_eq_of_rsv_zero h0 h1, hop, hn]

/-! ### The compression of the core -/

/-- The core's compression leaves COMPRESS in H, whatever W held (41_block_pipeline.md R93, R98). -/
@[simp] theorem CoreState.compressBlock_h (b : Block) (c : CoreState) : (c.compressBlock b).h = compress c.h b := by
  have hsched : scheduleInto (packInto b c.w) = scheduleOf b :=
    scheduleInto_congr _ _ fun i hi => by rw [packInto_getD, packInto_getD, if_pos hi, if_pos hi]
  simp [CoreState.compressBlock, compress, hsched]

theorem absorbBlocks_h (blocks : List Block) (c : CoreState) :
    (blocks.foldl (fun c b => c.absorbBlock b) c).h = blocks.foldl compress c.h := by
  induction blocks generalizing c with
  | nil => rfl
  | cons b bs ih => simp [ih]

theorem padFinal_h (n : Nat) (c : CoreState) :
    (c.padFinal n).h = (padBlocks (dataBytes c.data n) (lenAfter c.len n)).foldl compress c.h :=
  absorbBlocks_h _ _

theorem padFinal_blkcnt (n : Nat) (c : CoreState) : (c.padFinal n).blkcnt =
    c.blkcnt + BitVec.ofNat 32 (padBlocks (dataBytes c.data n) (lenAfter c.len n)).length := by
  rw [padFinal_frame]

theorem padBlocks_ne_nil (chunk : List Byte) (l : Word64) : padBlocks chunk l ≠ [] := by
  unfold padBlocks
  split <;> simp

/-! ### What the core's turn writes -/

/-- BUSY = 1 with no command in flight, which no reachable state has: the turn only clears BUSY (log 3). -/
theorem turn_none (c : CoreState) (h : c.busy = true) (hp : c.pending = none) : c.turn = c.retire := by
  simp [CoreState.turn, CoreState.complete, h, hp]

/-- The core compresses whole blocks into H and counts them in BLKCNT, if it writes H at all. -/
theorem turn_h (c : CoreState) : c.turn.h = c.h ∨ c.busy = true ∧ ∃ blocks : List Block, blocks ≠ [] ∧
    (∀ b ∈ blocks, b.length = 64) ∧ c.turn.blkcnt = c.blkcnt + BitVec.ofNat 32 blocks.length ∧
    c.turn.h = blocks.foldl compress c.h := by
  cases hbusy : c.busy with
  | false => exact .inl (by rw [turn_idle c hbusy])
  | true =>
    cases hpend : c.pending with
    | none => exact .inl (by rw [turn_none c hbusy hpend, CoreState.retire_h])
    | some p =>
      refine .inr ⟨rfl, ?_⟩
      obtain ⟨op, n⟩ := p
      cases op with
      | block =>
        rw [turn_block c n hbusy hpend]
        exact ⟨[dataBytes c.data 64], by simp, by simp, rfl, by simp⟩
      | final =>
        rw [turn_final c n hbusy hpend]
        exact ⟨padBlocks (dataBytes c.data n) (lenAfter c.len n), padBlocks_ne_nil _ _, padBlocks_length_64 _ _ (by simp),
          padFinal_blkcnt n c, padFinal_h n c⟩

@[simp] theorem turn_data (c : CoreState) : c.turn.data = c.data := by
  unfold CoreState.turn CoreState.complete
  split
  · split <;> simp
  · rfl

/-! ### The obligations -/

/-- Settles O46: of the cases of a step, only the core's turn, an accepted INIT and the reset write H. -/
theorem onlyThreeWritersOfTheDigest : Obligations.OnlyThreeWritersOfTheDigest := by
  intro s t hstep hne
  cases step_next hstep with
  | core rest hu ht =>
    subst ht
    obtain hsame | hblocks := turn_h s.core
    · exact absurd hsame hne
    · exact .inl ⟨⟨rest, hu⟩, hblocks⟩
  | init a v rest ha hadm hop hoff hd hbusy ht =>
    subst ht
    refine .inr (.inl ⟨⟨⟨rest, ?_⟩, hbusy⟩, rfl⟩)
    rw [ha, (admitted_write hadm hop).1, hoff, eq_one_of_decode_init hd]
  | reset rest hu ht => subst ht; exact .inr (.inr ⟨⟨rest, hu⟩, rfl⟩)
  | read _ _ _ _ _ ht => subst ht; exact absurd (by simp) hne
  | elsewhere _ _ _ _ ht | rejected _ _ _ _ _ _ _ _ ht | accepted _ _ _ _ _ _ _ _ _ _ _ _ ht | data _ _ _ _ _ _ _ _ _ ht
  | ignored _ _ _ _ _ _ _ _ ht => subst ht; exact absurd rfl hne

/-- Settles O47: of the cases of a step, only an accepted DATA write and the reset write DATA. -/
theorem onlyHostWritesChangeData : Obligations.OnlyHostWritesChangeData := by
  intro s t hstep hne
  cases step_next hstep with
  | data a v rest j ha hadm hop hj hbusy ht =>
    subst ht
    obtain ⟨hwr, halign⟩ := admitted_write hadm hop
    obtain ⟨hlt, hoff⟩ := off_of_dataIndex halign hj
    exact .inl ⟨hbusy, ⟨j, hlt⟩, v, rest, by rw [ha, hwr, hoff], setIfInBounds_eq_set _ v hlt⟩
  | reset rest hu ht => exact .inr ⟨rest, hu⟩
  | core _ _ ht => subst ht; exact absurd (turn_data _) hne
  | read _ _ _ _ _ ht => subst ht; exact absurd (by simp) hne
  | elsewhere _ _ _ _ ht | rejected _ _ _ _ _ _ _ _ ht | init _ _ _ _ _ _ _ _ _ ht | accepted _ _ _ _ _ _ _ _ _ _ _ _ ht
  | ignored _ _ _ _ _ _ _ _ ht => subst ht; exact absurd rfl hne

end Sys2Proof.Machine
end

section
/-! PROOF. The bytes of DATA as numbers, and the word packer on them (10_state.md R25, 20_memory.md R44). -/

open Sys2Proof.Claims

namespace Sys2Proof.Machine

/-- A byte of a word is a quotient of the word's number. -/
theorem wordByte_eq_ofNat (v : Word) (k : Nat) : wordByte v k = BitVec.ofNat 8 (v.toNat / 2 ^ (8 * (3 - k))) := by
  rw [wordByte, BitVec.extractLsb', Nat.shiftRight_eq_div_pow, show 24 - 8 * k = 8 * (3 - k) by omega]

theorem dataBytes_eq_bufferBytes (data : Vector Word 16) (n : Nat) : dataBytes data n = bufferBytes data n :=
  List.map_congr_left fun _ _ => wordByte_eq_ofNat _ _

/-- Byte k of DATA[j] is byte 4j + k of the buffer. -/
theorem dataByte_register (data : Vector Word 16) (j : Nat) {k : Nat} (hk : k < 4) :
    dataByte data (4 * j + k) = wordByte (data.getD j 0) k := by
  rw [dataByte, show (4 * j + k) / 4 = j by omega, show (4 * j + k) % 4 = k by omega]

theorem dataBytes_getD (data : Vector Word 16) {n i : Nat} (hi : i < n) : (dataBytes data n).getD i 0 = dataByte data i := by
  simp [dataBytes, hi]

/-- BE32 as a number: the bytes are the digits of the word in base 256, the first the most significant. -/
theorem be32_toNat (b0 b1 b2 b3 : Byte) :
    (be32 b0 b1 b2 b3).toNat = 2 ^ 24 * b0.toNat + (2 ^ 16 * b1.toNat + (2 ^ 8 * b2.toNat + b3.toNat)) := by
  have hshift : ∀ (b : Byte) (n : Nat), n ≤ 24 → (b.setWidth 32 <<< n).toNat = 2 ^ n * b.toNat := fun b n hn => by
    have hpow : 2 ^ n ≤ 2 ^ 24 := Nat.pow_le_pow_right (by decide) hn
    have hlt : 2 ^ n * b.toNat < 2 ^ 32 := (Nat.mul_lt_mul_of_le_of_lt hpow b.isLt (by decide)).trans_eq (by decide)
    rw [BitVec.toNat_shiftLeft, BitVec.toNat_setWidth_of_le (by decide), Nat.shiftLeft_eq, Nat.mul_comm,
      Nat.mod_eq_of_lt hlt]
  have h3 : (b3.setWidth 32).toNat = b3.toNat := BitVec.toNat_setWidth_of_le (by decide)
  simp only [be32, BitVec.toNat_or, hshift _ 24 (by omega), hshift _ 16 (by omega), hshift _ 8 (by omega), h3, Nat.or_assoc]
  rw [← Nat.two_pow_add_eq_or_of_lt (i := 8) (by omega), ← Nat.two_pow_add_eq_or_of_lt (i := 16) (by omega),
    ← Nat.two_pow_add_eq_or_of_lt (i := 24) (by omega)]

/-- A word is the big-endian reading of its own four bytes. -/
theorem be32_wordByte (v : Word) : be32 (wordByte v 0) (wordByte v 1) (wordByte v 2) (wordByte v 3) = v := by
  apply BitVec.eq_of_toNat_eq
  simp only [be32_toNat, wordByte_eq_ofNat, BitVec.toNat_ofNat]
  omega

/-- The packer gives back the words of DATA. -/
theorem packWord_dataBytes (data : Vector Word 16) {j : Nat} (hj : j < 16) :
    packWord (dataBytes data 64) j = data.getD j 0 := by
  have hbyte : ∀ k, k < 4 → (dataBytes data 64).getD (4 * j + k) 0 = wordByte (data.getD j 0) k := fun k hk => by
    rw [dataBytes_getD data (by omega), dataByte_register data j hk]
  rw [packWord, hbyte 1 (by omega), hbyte 2 (by omega), hbyte 3 (by omega), show 4 * j = 4 * j + 0 from rfl,
    hbyte 0 (by omega), be32_wordByte]

/-- Settles O11: packing undoes the split of DATA into bytes. -/
theorem packedDataIsData : Obligations.PackedDataIsData := by
  intro c j hj
  refine ⟨?_, fun k hk => ?_⟩
  · rw [CoreState.pack_w, packInto_getD, if_pos hj, packWord_dataBytes c.data hj]
  · rw [dataByte_register c.data j hk, wordByte_eq_ofNat]

end Sys2Proof.Machine
end

section
/-! PROOF. Which event is next when the host is stuck, and when a step answers (20_memory.md R42, R45, R49). -/

open Sys2Proof.Claims

namespace Sys2Proof.Machine

/-! ### The host's accesses and the other agents' events -/

theorem stuck_iff {a : Access} : a.stuck = true ↔ HostStuckAt a := by
  simp only [Access.stuck, Access.inWindow, Access.inContract, HostStuckAt, Bool.and_eq_true, Bool.not_eq_true',
    Bool.and_eq_false_iff, decide_eq_true_eq, decide_eq_false_iff_not]

theorem not_stuck_of_not_hostStuckAt {a : Access} (h : ¬ HostStuckAt a) : a.stuck = false :=
  Bool.eq_false_iff.2 (mt stuck_iff.1 h)

/-- The events that are not the host's are the core's turns and the resets (10_state.md R13). -/
theorem not_fromHost (e : Event) : (!e.fromHost) = decide (e = .core ∨ e = .reset) := by
  cases e <;> simp [Event.fromHost]

/-- What other agents do is found behind any accesses of the host. -/
theorem filter_others (as : List Access) (rest : List Event) :
    (as.map Event.access ++ rest).filter (fun x => !x.fromHost) = rest.filter fun x => decide (x = .core ∨ x = .reset) := by
  have hnone : (as.map Event.access).filter (fun x => decide (x = .core ∨ x = .reset)) = [] := by simp
  simp only [not_fromHost, List.filter_append, hnone, List.nil_append]

/-- Where no other agent does anything, only accesses are to come. -/
theorem eq_map_access_of_no_others {l : List Event} (h : l.filter (fun x => !x.fromHost) = []) :
    ∃ as : List Access, l = as.map .access := by
  induction l with
  | nil => exact ⟨[], rfl⟩
  | cons e l ih =>
    cases e with
    | access a =>
      obtain ⟨as, rfl⟩ := ih (by simpa [Event.fromHost] using h)
      exact ⟨a :: as, rfl⟩
    | core | reset => simp [Event.fromHost] at h

/-! ### The next event -/

section
variable {s : State} {a : Access} {as : List Access} {rest : List Event}

theorem upcoming_host (ha : s.agenda = .access a :: rest) (hns : ¬ HostStuckAt a) : s.upcoming = some (.access a, rest) :=
  upcoming_event ha (not_stuck_of_not_hostStuckAt hns)

theorem upcoming_stuck_alone (hs : HostStuckAt a) (ha : s.agenda = .access a :: as.map .access) :
    s.upcoming = if s.core.busy then some (.core, [.access a]) else none :=
  upcoming_alone ha (stuck_iff.2 hs) (by simpa using filter_others as [])

theorem upcoming_stuck_other {e : Event} (hs : HostStuckAt a) (he : e = .core ∨ e = .reset)
    (ha : s.agenda = .access a :: (as.map .access ++ e :: rest)) :
    s.upcoming = some (e, .access a :: rest.filter fun x => decide (x = .core ∨ x = .reset)) :=
  upcoming_others ha (stuck_iff.2 hs) (by rw [filter_others, List.filter_cons_of_pos (by simpa using he)])

/-- No agent can move exactly where the host is stuck, only its accesses are to come, and no command is in flight. -/
theorem upcoming_eq_none_iff : s.upcoming = none ↔
    s.core.busy = false ∧ ∃ (a : Access) (as : List Access), HostStuckAt a ∧ s.agenda = .access a :: as.map .access := by
  refine ⟨fun h => ?_, fun ⟨hbusy, a, as, hs, ha⟩ => by simp [upcoming_stuck_alone hs ha, hbusy]⟩
  have hcase := upcoming_cases s
  rw [h] at hcase
  cases hcase with
  | none e rest ha he ho hbusy =>
    obtain ⟨as, rfl⟩ := eq_map_access_of_no_others ho
    cases e with
    | access a => exact ⟨hbusy, a, as, stuck_iff.1 he, ha⟩
    | core | reset => cases he

end

/-! ### Every event that is next has a next state -/

theorem issueCommand_total (v : Word) (s : State) : ∃ t, s.issueCommand v = .next t := by
  cases hbusy : s.core.busy with
  | true => exact ⟨_, issueCommand_busy v s hbusy⟩
  | false =>
    cases hd : decode v with
    | error e => exact ⟨_, issueCommand_error v s e hbusy hd⟩
    | ok i => rw [issueCommand_ok v s i hbusy hd]; exact exec_total i (decode_wellFormed hd) s

theorem busWrite_total (off : Nat) (v : Word) (s : State) : ∃ t, s.busWrite off v = .next t := by
  unfold State.busWrite
  split
  · exact issueCommand_total v s
  · split <;> exact ⟨_, rfl⟩

theorem perform_total {e : Event} (he : e.stuck = false) (s : State) : ∃ t, s.perform e = .next t := by
  cases e with
  | core | reset => exact ⟨_, rfl⟩
  | access a =>
    change ∃ t, s.access a = .next t
    obtain hout | hadm := not_stuck_cases he
    · exact ⟨s, access_elsewhere a s hout⟩
    · rw [access_admitted a s hadm]
      cases a.op with
      | read => exact ⟨_, rfl⟩
      | write v => exact busWrite_total a.off v s

theorem upcoming_not_stuck {s : State} {e : Event} {rest : List Event} (h : s.upcoming = some (e, rest)) :
    e.stuck = false := by
  cases e with
  | access a => exact (upcoming_access h).2
  | core | reset => rfl

/-- A step answers a next state unless no agent can move. -/
theorem step_total {s : State} (h : s.upcoming ≠ none) : ∃ t, step s = .next t := by
  obtain ⟨⟨e, rest⟩, hu⟩ := Option.ne_none_iff_exists'.1 h
  rw [step_upcoming hu]
  exact perform_total (upcoming_not_stuck hu) _

/-! ### Reset -/

/-- The reset values are those of the table (70_reset_and_hazards.md R181). -/
theorem CoreState.reset_afterReset (n : Nat) : AfterReset (CoreState.reset n) := rfl

/-! ### The obligations -/

/-- Settles O58: a case for each form of the agenda. -/
theorem whoMovesNext : Obligations.WhoMovesNext := fun _ =>
  ⟨upcoming_silent, fun _ ha => upcoming_event ha rfl, fun _ ha => upcoming_event ha rfl, fun _ _ => upcoming_host,
    fun _ _ _ hs => ⟨upcoming_stuck_alone hs, fun _ => upcoming_stuck_other hs⟩⟩

/-- Settles O44: the step follows the next event, and a stop means that there is none. -/
theorem accessOutsideContractIsStuck : Obligations.AccessOutsideContractIsStuck := by
  refine ⟨fun s a as hs ha => ⟨fun hbusy => ?_, fun hbusy => ?_⟩, fun s a as more hs => ⟨fun ha => ?_, fun ha => ?_⟩,
    fun s hstop => ?_⟩
  · exact step_none (upcoming_eq_none_iff.2 ⟨hbusy, a, as, hs, ha⟩)
  · exact step_core (by rw [upcoming_stuck_alone hs ha, if_pos hbusy])
  · exact ⟨_, step_core (upcoming_stuck_other hs (.inl rfl) ha), rfl⟩
  · exact ⟨_, step_upcoming (upcoming_stuck_other hs (.inr rfl) ha), CoreState.reset_afterReset _, rfl⟩
  · refine upcoming_eq_none_iff.1 (by_contra fun hne => ?_)
    obtain ⟨t, ht⟩ := step_total hne
    rw [hstop] at ht
    cases ht

/-- Settles O45: a step without a next state has a stuck host and BUSY = 0. -/
theorem admittedEventsNeverStop : Obligations.AdmittedEventsNeverStop := by
  refine fun s h => step_total fun hnone => ?_
  obtain ⟨hidle, a, as, hs, ha⟩ := upcoming_eq_none_iff.1 hnone
  obtain hbusy | hfree := h
  · rw [hidle] at hbusy; cases hbusy
  · exact hfree a _ ha hs

/-- Settles O43: an access past the window has no effect, and the decode is arithmetic on BASE and the address. -/
theorem addressDecode : Obligations.AddressDecode := by
  refine ⟨fun s rest a hoff => ?_,
    fun base addr hbase => ⟨fun hin => ?_, fun s width op => ⟨fun hin => ?_, fun hout => ?_⟩⟩⟩
  · have hout : a.inWindow = false := decide_eq_false (Nat.not_lt.2 hoff)
    exact (step_event s (.access a) rest (elsewhere_not_stuck hout)).trans (access_elsewhere a _ hout)
  · have hbase : base % 0x100 = 0 := of_decide_eq_true hbase
    exact ⟨if_pos hin, by omega⟩
  · rw [State.issue, show windowOffset base addr = some (addr - base) from if_pos hin]
  · rw [State.issue, show windowOffset base addr = none from if_neg hout]

end Sys2Proof.Machine
end

section
/-! PROOF. A command in flight: what a step can do to the block while BUSY = 1 (20_memory.md R51, R54). -/

open Sys2Proof.Claims

namespace Sys2Proof.Machine

/-- What a step has done to the block when a command was in flight. -/
inductive BusyCase (s t : State) : Prop where
  /-- The core completed it. -/
  | core (hu : CoreNext s) (ht : t.core = s.core.turn)
  /-- The reset abandoned it. -/
  | reset (hu : ResetNext s) (ht : t.core = CoreState.reset s.draws)
  /-- The host made an access, which can have recorded an error and has no other effect on the block. -/
  | host (a : Access) (rest : List Event) (hu : s.upcoming = some (.access a, rest))
      (ht : t.core = { s.core with err := t.core.err, errcode := t.core.errcode })

/-- Of the cases of a step, those that accept a write need BUSY = 0. -/
theorem step_busy {s t : State} (hstep : step s = .next t) (hbusy : s.core.busy = true) : BusyCase s t := by
  cases step_next hstep with
  | core rest hu ht => subst ht; exact .core ⟨rest, hu⟩ rfl
  | reset rest hu ht => subst ht; exact .reset ⟨rest, hu⟩ rfl
  | elsewhere a rest ha hw ht => subst ht; exact .host a rest (upcoming_event ha (elsewhere_not_stuck hw)) rfl
  | read a rest ha hadm _ ht => subst ht; exact .host a rest (upcoming_event ha (admitted_not_stuck hadm)) (by simp)
  | rejected a _ rest _ ha hadm _ _ ht => subst ht; exact .host a rest (upcoming_event ha (admitted_not_stuck hadm)) rfl
  | ignored a _ rest ha hadm _ _ _ ht => subst ht; exact .host a rest (upcoming_event ha (admitted_not_stuck hadm)) rfl
  | init _ _ _ _ _ _ _ _ hidle _ | accepted _ _ _ _ _ _ _ _ _ hidle _ _ _ | data _ _ _ _ _ _ _ _ hidle _ =>
    rw [hbusy] at hidle; cases hidle

/-- A host access with BUSY = 1 is performed, uses up its event, and changes nothing of the block but ERR and ERRCODE. -/
theorem step_host_busy {s t : State} {a : Access} {rest : List Event} (hbusy : s.core.busy = true) (hns : ¬ HostStuckAt a)
    (ha : s.agenda = .access a :: rest) (hstep : step s = .next t) :
    t.core = { s.core with err := t.core.err, errcode := t.core.errcode } ∧ t.agenda = rest := by
  have hnext := upcoming_host ha hns
  refine ⟨?_, ?_⟩
  · cases step_busy hstep hbusy with
    | core hu _ => obtain ⟨_, hu⟩ := hu; rw [hnext] at hu; cases hu
    | reset hu _ => obtain ⟨_, hu⟩ := hu; rw [hnext] at hu; cases hu
    | host _ _ _ ht => exact ht
  · obtain ⟨_, hu⟩ := step_takes hstep
    rw [hnext] at hu
    cases hu
    rfl

/-- A run of host accesses with BUSY = 1 uses up their events and changes nothing of the block but ERR and ERRCODE. -/
theorem reaches_host_busy (as : List Access) {rest : List Event} {s : State} (hbusy : s.core.busy = true)
    (hns : ∀ a ∈ as, ¬ HostStuckAt a) (ha : s.agenda = as.map .access ++ rest) :
    ∃ t err errcode, Reaches as.length s t ∧ t.core = { s.core with err := err, errcode := errcode } ∧ t.agenda = rest := by
  induction as generalizing s with
  | nil => exact ⟨s, _, _, reaches_zero s, rfl, ha⟩
  | cons a as ih =>
    obtain ⟨hna, hnas⟩ := List.forall_mem_cons.1 hns
    obtain ⟨u, hu⟩ := admittedEventsNeverStop s (.inl hbusy)
    obtain ⟨hcore, hagenda⟩ := step_host_busy hbusy hna ha hu
    obtain ⟨t, err, errcode, hrun, ht, hrest⟩ := ih (s := u) (by rw [hcore]; exact hbusy) hnas hagenda
    exact ⟨t, err, errcode, reaches_succ hu hrun, by rw [ht, hcore], hrest⟩

/-- The write of BLOCK's word is accepted with BUSY = 0 in phase ABSORB (43_commands.md R128). -/
theorem step_cmd_block (s : State) (rest : List Event) (hbusy : s.core.busy = false) (hphase : s.core.phase = .absorb) :
    step { s with agenda := wr 0x00 0x00000002 :: rest } =
      .next (({ s with agenda := rest } : State).mapCore (CoreState.accept .block 0)) := by
  rw [step_cmd, issueCommand_ok 0x00000002 { s with agenda := rest } .block hbusy (by decide)]
  exact issuePending_absorb .block 0 { s with agenda := rest } hbusy hphase

/-- The completion of BLOCK compresses DATA into H (43_commands.md R131). -/
theorem turn_block_h {c : CoreState} {n : Fin 64} (hbusy : c.busy = true) (hpend : c.pending = some (.block, n)) :
    c.turn.h = compress c.h (bufferBytes c.data 64) := by
  rw [turn_block c n hbusy hpend, ← dataBytes_eq_bufferBytes]
  simp

/-! ### The obligations -/

/-- Settles O52: the core's turn and the reset clear BUSY, and the host's accesses keep it. -/
theorem busyUntilCompletion : Obligations.BusyUntilCompletion := by
  intro s t hstep hbusy
  cases step_busy hstep hbusy with
  | core hu ht => exact .inr ⟨.inl hu, by rw [ht, turn_busy]⟩
  | reset hu ht => exact .inr ⟨.inr hu, by rw [ht, CoreState.reset_busy]⟩
  | host a rest hu ht =>
    refine .inl ⟨by rw [ht]; exact hbusy, ?_, ?_⟩ <;>
    · rintro ⟨_, hother⟩
      rw [hu] at hother
      cases hother

/-- Settles O50: the host's case of a step with a command in flight. -/
theorem hostCannotDisturbACommand : Obligations.HostCannotDisturbACommand :=
  fun _ _ _ _ hbusy hns ha hstep => step_host_busy hbusy hns ha hstep

/-- Settles O51: acceptance, then a run of accesses that leaves the command and DATA alone, then the completion. -/
theorem commandAbsorbsDataOfAcceptance : Obligations.CommandAbsorbsDataOfAcceptance := by
  intro s as rest hbusy hphase hns
  have haccept := step_cmd_block s (as.map .access ++ .core :: rest) hbusy hphase
  obtain ⟨u, err, errcode, hrun, hcore, hagenda⟩ := reaches_host_busy (rest := .core :: rest) as
    (s := ({ s with agenda := as.map .access ++ .core :: rest } : State).mapCore (CoreState.accept .block 0)) rfl hns rfl
  have hturn : step u = .next { u with agenda := rest, core := u.core.turn } := step_core (upcoming_event hagenda rfl)
  refine ⟨_, reaches_succ haccept (reaches_add hrun (reaches_succ hturn (reaches_zero _))), ?_, ?_, turn_busy _, rfl⟩
  · dsimp only
    rw [hcore, turn_block_h rfl rfl]
    rfl
  · dsimp only
    rw [turn_data, hcore]
    rfl

end Sys2Proof.Machine
end

section
/-! PROOF. The encoding: a word is its four fields, the decoder on them, and the 66 legal words (30_encoding.md R61 to
R65). -/

open Sys2Proof.Claims

namespace Sys2Proof.Machine

/-! ### The decoder on the fields as numbers -/

theorem fieldOp_eq_iff {v : Word} {k : BitVec 3} : fieldOp v = k ↔ opOf v = k.toNat := by
  rw [← fieldOp_toNat, BitVec.toNat_inj]

theorem fieldRsv0_eq_iff {v : Word} {k : BitVec 5} : fieldRsv0 v = k ↔ rsv0Of v = k.toNat := by
  rw [← fieldRsv0_toNat, BitVec.toNat_inj]

theorem fieldNbytes_eq_iff {v : Word} {k : BitVec 6} : fieldNbytes v = k ↔ nbytesOf v = k.toNat := by
  rw [← fieldNbytes_toNat, BitVec.toNat_inj]

theorem fieldRsv1_eq_iff {v : Word} {k : BitVec 18} : fieldRsv1 v = k ↔ rsv1Of v = k.toNat := by
  rw [← fieldRsv1_toNat, BitVec.toNat_inj]

/-- Settles O3: each test of the decoder on a field is the test of the field's number. -/
theorem decodeFollowsItsChecks : Obligations.DecodeFollowsItsChecks := by
  refine ⟨fun v => ?_, by decide, by decide, by decide, by decide⟩
  simp only [decode, operandBytes, ne_eq, fieldOp_eq_iff, fieldRsv0_eq_iff, fieldNbytes_eq_iff, fieldRsv1_eq_iff,
    fieldNbytes_toNat]
  rfl

/-! ### Illegal words -/

/-- The first check of the decoder (30_encoding.md R64). -/
theorem decode_illegalOpcode {v : Word} (h : opOf v = 0 ∨ 4 ≤ opOf v) : decode v = .error .illegalOpcode := by
  rw [decodeFollowsItsChecks.1 v, if_pos (by omega)]

/-- The second and the third check of the decoder (30_encoding.md R64). -/
theorem decode_reservedBits {v : Word} (hop : 1 ≤ opOf v ∧ opOf v ≤ 3)
    (h : rsv0Of v ≠ 0 ∨ rsv1Of v ≠ 0 ∨ (opOf v ≤ 2 ∧ nbytesOf v ≠ 0)) : decode v = .error .reservedBits := by
  rw [decodeFollowsItsChecks.1 v, if_neg (by omega)]
  by_cases hrsv : rsv0Of v ≠ 0 ∨ rsv1Of v ≠ 0
  · rw [if_pos hrsv]
  · rw [if_neg hrsv, if_pos (by omega)]

/-- With BUSY = 0 the write of a word that does not decode records the cause, and has no other effect
(30_encoding.md R65, 43_commands.md R129). -/
theorem step_cmd_error {s : State} (rest : List Event) {v : Word} {e : DecodeError} (hbusy : s.core.busy = false)
    (hd : decode v = .error e) :
    step { s with agenda := wr 0x00 v :: rest } = .next (rejected (causeOf e).code rest s) := by
  rw [step_cmd, issueCommand_error v { s with agenda := rest } e hbusy hd]
  rfl

/-- Settles O5: the decoder's checks give the cause, and the write records it. -/
theorem illegalWordRecordsItsCode : Obligations.IllegalWordRecordsItsCode :=
  fun _ rest _ hbusy => ⟨fun hop => step_cmd_error rest hbusy (decode_illegalOpcode hop),
    fun hop h => step_cmd_error rest hbusy (decode_reservedBits hop h)⟩

/-- Settles O32: the operand of FINAL is not in 0..63, and the decoder gives only well-formed commands. -/
theorem unencodableFinalRefused : Obligations.UnencodableFinalRefused := by
  refine fun s n hn => ⟨dif_neg (Nat.not_lt.2 hn), fun v hd => ?_⟩
  have hlt : n < 64 := of_decide_eq_true (decode_wellFormed hd)
  omega

/-! ### A word is its four fields -/

theorem toNat_eq_fields (v : Word) : v.toNat = (fieldOp v).toNat + 8 * (fieldRsv0 v).toNat +
    256 * (fieldNbytes v).toNat + 16384 * (fieldRsv1 v).toNat := by
  rw [fieldOp_toNat, fieldRsv0_toNat, fieldNbytes_toNat, fieldRsv1_toNat, opOf, rsv0Of, nbytesOf, rsv1Of]
  omega

theorem eq_iff_fields {v w : Word} : v = w ↔
    fieldOp v = fieldOp w ∧ fieldNbytes v = fieldNbytes w ∧ fieldRsv0 v = fieldRsv0 w ∧ fieldRsv1 v = fieldRsv1 w := by
  constructor
  · rintro rfl
    exact ⟨rfl, rfl, rfl, rfl⟩
  · rintro ⟨hop, hn, h0, h1⟩
    apply BitVec.eq_of_toNat_eq
    rw [toNat_eq_fields v, hop, hn, h0, h1, ← toNat_eq_fields w]

theorem append_toNat {m n : Nat} (x : BitVec m) (y : BitVec n) : (x ++ y).toNat = 2 ^ n * x.toNat + y.toNat := by
  rw [BitVec.toNat_append, ← Nat.shiftLeft_add_eq_or_of_lt y.isLt, Nat.shiftLeft_eq, Nat.mul_comm]

theorem commandWord_toNat (op : BitVec 3) (nbytes : BitVec 6) :
    (commandWord op nbytes).toNat = op.toNat + 256 * nbytes.toNat := by
  rw [commandWord, append_toNat (m := 29), append_toNat (m := 24), append_toNat (m := 18)]
  simp only [BitVec.ofNat_eq_ofNat, BitVec.toNat_ofNat]
  omega

section
variable (op : BitVec 3) (nbytes : BitVec 6)

@[simp] theorem fieldOp_commandWord : fieldOp (commandWord op nbytes) = op := by
  rw [fieldOp_eq_iff, opOf, commandWord_toNat]
  omega

@[simp] theorem fieldNbytes_commandWord : fieldNbytes (commandWord op nbytes) = nbytes := by
  rw [fieldNbytes_eq_iff, nbytesOf, commandWord_toNat]
  omega

@[simp] theorem fieldRsv0_commandWord : fieldRsv0 (commandWord op nbytes) = 0 := by
  rw [fieldRsv0_eq_iff, rsv0Of, commandWord_toNat, show (0 : BitVec 5).toNat = 0 from rfl]
  omega

@[simp] theorem fieldRsv1_commandWord : fieldRsv1 (commandWord op nbytes) = 0 := by
  rw [fieldRsv1_eq_iff, rsv1Of, commandWord_toNat, show (0 : BitVec 18).toNat = 0 from rfl]
  omega

theorem commandWord_eq_iff {v : Word} : commandWord op nbytes = v ↔
    fieldOp v = op ∧ fieldNbytes v = nbytes ∧ fieldRsv0 v = 0 ∧ fieldRsv1 v = 0 := by
  simp [eq_comm (a := commandWord op nbytes), eq_iff_fields]

end

/-! ### Decoder and encoder -/

/-- The decoder undoes the encoder. -/
theorem decode_encode {i : Instr} (hi : i.WellFormed) : decode (encode i) = .ok i := by
  cases i with
  | init | block => decide
  | final n =>
    have hn : n < 64 := of_decide_eq_true hi
    simp [encode, decode, operandBytes, Nat.mod_eq_of_lt hn]

/-- A word that decodes is the word of its command: the checks leave no other field to differ. -/
theorem encode_of_decode {v : Word} {i : Instr} (h : decode v = .ok i) : encode i = v := by
  unfold decode at h
  split_ifs at h with hop hrsv hn hinit hblock
  all_goals
    cases h
    simp only [not_or, not_not] at hrsv
    rw [encode, commandWord_eq_iff]
  · exact ⟨hinit, by simpa [hinit] using hn, hrsv⟩
  · exact ⟨hblock, by simpa [hblock] using hn, hrsv⟩
  · exact ⟨by_contra fun hfinal => hop ⟨hinit, hblock, hfinal⟩, by simp [operandBytes], hrsv⟩

theorem decode_eq_ok_iff {v : Word} {i : Instr} : decode v = .ok i ↔ i.WellFormed ∧ encode i = v :=
  ⟨fun h => ⟨decode_wellFormed h, encode_of_decode h⟩, fun ⟨hi, h⟩ => h ▸ decode_encode hi⟩

/-! ### The rows of the opcode map -/

/-- The mask of FINAL's row keeps every field but NBYTES (30_encoding.md R63). -/
theorem and_finalMask_eq_iff {v : Word} : v &&& 0xFFFFC0FF = 0x00000003 ↔
    fieldOp v = 3 ∧ fieldRsv0 v = 0 ∧ fieldRsv1 v = 0 := by
  have hop : fieldOp (v &&& 0xFFFFC0FF) = fieldOp v := BitVec.extractLsb'_and.trans BitVec.and_allOnes
  have hn : fieldNbytes (v &&& 0xFFFFC0FF) = 0 := BitVec.extractLsb'_and.trans BitVec.and_zero
  have h0 : fieldRsv0 (v &&& 0xFFFFC0FF) = fieldRsv0 v := BitVec.extractLsb'_and.trans BitVec.and_allOnes
  have h1 : fieldRsv1 (v &&& 0xFFFFC0FF) = fieldRsv1 v := BitVec.extractLsb'_and.trans BitVec.and_allOnes
  rw [show (0x00000003 : Word) = commandWord 3 0 by decide, eq_comm, commandWord_eq_iff, hop, hn, h0, h1]
  simp

/-- The rows of INIT and BLOCK fix every bit, so each has one word (30_encoding.md R63). -/
theorem decode_eq_ok_iff_fullMask {v : Word} {i : Instr} (hi : i.WellFormed) :
    decode v = .ok i ↔ v &&& 0xFFFFFFFF = encode i := by
  rw [decode_eq_ok_iff, and_iff_right hi, show v &&& 0xFFFFFFFF = v from BitVec.and_allOnes, eq_comm]

theorem decode_eq_final_iff {v : Word} {n : Nat} :
    decode v = .ok (.final n) ↔ v &&& 0xFFFFC0FF = 0x00000003 ∧ n = nbytesOf v := by
  rw [and_finalMask_eq_iff, decode_eq_ok_iff, encode, commandWord_eq_iff, fieldNbytes_eq_iff, BitVec.toNat_ofNat]
  have hlt : nbytesOf v < 64 := Nat.mod_lt _ (by decide)
  constructor
  · rintro ⟨hi, hop, hn, h0, h1⟩
    have hn64 : n < 64 := of_decide_eq_true hi
    exact ⟨⟨hop, h0, h1⟩, by omega⟩
  · rintro ⟨⟨hop, h0, h1⟩, rfl⟩
    exact ⟨decide_eq_true hlt, hop, by omega, h0, h1⟩

/-! ### The legal words -/

/-- The 66 commands that have a word (30_encoding.md R63). -/
def legalCommands : List Instr := [.init, .block] ++ (List.range 64).map .final

theorem mem_legalCommands {i : Instr} : i ∈ legalCommands ↔ i.WellFormed := by
  cases i <;> simp [legalCommands, Instr.WellFormed, Instr.wellFormed]

theorem legalCommands_nodup : legalCommands.Nodup := by decide

/-- The list of the legal words is that of the commands, encoded. -/
theorem legalWords_eq_map_encode : legalWords = legalCommands.map encode := by decide

/-- Two commands have two words, for the decoder tells them apart. -/
theorem legalWords_nodup : legalWords.Nodup := by
  rw [legalWords_eq_map_encode]
  refine legalCommands_nodup.map_on fun i hi j hj hij => ?_
  have hok := decode_encode (mem_legalCommands.1 hi)
  rw [hij, decode_encode (mem_legalCommands.1 hj)] at hok
  cases hok
  rfl

theorem mem_legalWords {v : Word} : v ∈ legalWords ↔ ∃ i, decode v = .ok i := by
  simp only [legalWords_eq_map_encode, List.mem_map, mem_legalCommands, decode_eq_ok_iff]

/-- Settles O2: the rows by mask and match, and the words of the well-formed commands. -/
theorem opcodeMapIsComplete : Obligations.OpcodeMapIsComplete :=
  ⟨fun _ => decode_eq_ok_iff_fullMask (i := .init) rfl, fun _ => decode_eq_ok_iff_fullMask (i := .block) rfl,
    fun _ _ => decode_eq_final_iff, by decide, legalWords_nodup, fun _ => mem_legalWords.symm⟩

end Sys2Proof.Machine
end

section
/-! PROOF. The datapath functions, bit by bit (40_functions.md R76 to R85). -/

namespace Sys2Proof.Machine

theorem getLsbD_ones {i : Nat} (hi : i < 32) : (0xFFFFFFFF : Word).getLsbD i = true :=
  BitVec.getLsbD_allOnes.trans (decide_eq_true hi)

/-! ### One rule per function: bit i of its result -/

/-- R76, for amount 0 as well: the right shift gives the bits below 32 - n, the left shift those from there on. -/
theorem getLsbD_rotr (x : Word) {n i : Nat} (hn : n ≤ 31) (hi : i < 32) :
    (rotr x n).getLsbD i = x.getLsbD ((i + n) % 32) := by
  simp only [rotr, BitVec.getLsbD_or, BitVec.getLsbD_ushiftRight, BitVec.getLsbD_shiftLeft]
  by_cases hlow : i + n < 32
  · simp [Nat.mod_eq_of_lt hlow, Nat.add_comm n i, show i < 32 - n by omega]
  · simp [show (i + n) % 32 = i - (32 - n) by omega, BitVec.getLsbD_of_ge x (n + i) (by omega), hi,
      show ¬ i < 32 - n by omega]

/-- R77: above bit 31 there is nothing to shift in. -/
theorem getLsbD_shr (x : Word) (n i : Nat) : (shr x n).getLsbD i = (decide (i + n < 32) && x.getLsbD (i + n)) := by
  rw [shr, BitVec.getLsbD_ushiftRight, Nat.add_comm]
  by_cases h : i + n < 32
  · simp [h]
  · simp [h, BitVec.getLsbD_of_ge x (i + n) (by omega)]

theorem getLsbD_ch (e f g : Word) {i : Nat} (hi : i < 32) :
    (ch e f g).getLsbD i = if e.getLsbD i = true then f.getLsbD i else g.getLsbD i := by
  simp only [ch, BitVec.getLsbD_xor, BitVec.getLsbD_and, BitVec.getLsbD_not, hi]
  cases e.getLsbD i <;> simp

theorem getLsbD_maj (a b c : Word) (i : Nat) :
    (maj a b c).getLsbD i = Bool.atLeastTwo (a.getLsbD i) (b.getLsbD i) (c.getLsbD i) := by
  simp only [maj, BitVec.getLsbD_xor, BitVec.getLsbD_and]
  cases a.getLsbD i <;> cases b.getLsbD i <;> cases c.getLsbD i <;> rfl

theorem atLeastTwo_iff (p q r : Bool) : Bool.atLeastTwo p q r = true ↔ 2 ≤ p.toNat + q.toNat + r.toNat := by
  cases p <;> cases q <;> cases r <;> decide

/-! ### Rotation loses no bit -/

theorem rotr_zero (x : Word) : rotr x 0 = x :=
  BitVec.eq_of_getLsbD_eq fun i hi => by rw [getLsbD_rotr x (by decide) hi, Nat.add_zero, Nat.mod_eq_of_lt hi]

/-- Bit j is found again at j - n mod 32. -/
theorem rotr_injective {n : Nat} (hn : n ≤ 31) : Function.Injective (rotr · n) := fun x y h =>
  BitVec.eq_of_getLsbD_eq fun j hj => by
    have hbit : (rotr x n).getLsbD ((j + 32 - n) % 32) = (rotr y n).getLsbD ((j + 32 - n) % 32) :=
      congrArg (BitVec.getLsbD · ((j + 32 - n) % 32)) h
    have hback : ((j + 32 - n) % 32 + n) % 32 = j := by omega
    rwa [getLsbD_rotr x hn (Nat.mod_lt _ (by decide)), getLsbD_rotr y hn (Nat.mod_lt _ (by decide)), hback] at hbit

/-- The words 0 and all ones are those whose bits are all alike. -/
theorem rotr_eq_self_of_const {x : Word} {b : Bool} (hx : ∀ i, i < 32 → x.getLsbD i = b) {n : Nat} (hn : n ≤ 31) :
    rotr x n = x :=
  BitVec.eq_of_getLsbD_eq fun i hi => by rw [getLsbD_rotr x hn hi, hx _ (Nat.mod_lt _ (by decide)), hx i hi]

/-! ### The corner cases of Ch and Maj -/

section
variable (e f g : Word)

theorem ch_ones : ch 0xFFFFFFFF f g = f :=
  BitVec.eq_of_getLsbD_eq fun i hi => by rw [getLsbD_ch _ f g hi, if_pos (getLsbD_ones hi)]

theorem ch_zeros : ch 0x00000000 f g = g :=
  BitVec.eq_of_getLsbD_eq fun i hi => by rw [getLsbD_ch _ f g hi, if_neg (by simp)]

theorem ch_same : ch e f f = f :=
  BitVec.eq_of_getLsbD_eq fun i hi => by rw [getLsbD_ch e f f hi, ite_self]

end

section
variable (x y : Word)

theorem maj_same_left : maj x x y = x :=
  BitVec.eq_of_getLsbD_eq fun i _ => by rw [getLsbD_maj]; cases x.getLsbD i <;> simp [Bool.atLeastTwo]

theorem maj_same_right : maj x y y = y :=
  BitVec.eq_of_getLsbD_eq fun i _ => by rw [getLsbD_maj]; cases y.getLsbD i <;> simp [Bool.atLeastTwo]

theorem maj_not : maj x (~~~x) y = y :=
  BitVec.eq_of_getLsbD_eq fun i hi => by
    rw [getLsbD_maj, BitVec.getLsbD_not, decide_eq_true hi]
    cases x.getLsbD i <;> simp [Bool.atLeastTwo]

end

/-! ### The exclusive or of three moved words -/

section
variable (x : Word) {k m n i : Nat} (hk : k ≤ 31) (hm : m ≤ 31) (hi : i < 32)
include hk hm hi

/-- The shape of the round functions (R82, R83). -/
theorem getLsbD_three_rotr (hn : n ≤ 31) : (rotr x k ^^^ rotr x m ^^^ rotr x n).getLsbD i =
    ((x.getLsbD ((i + k) % 32)).xor (x.getLsbD ((i + m) % 32))).xor (x.getLsbD ((i + n) % 32)) := by
  rw [BitVec.getLsbD_xor, BitVec.getLsbD_xor, getLsbD_rotr x hk hi, getLsbD_rotr x hm hi, getLsbD_rotr x hn hi]

/-- The shape of the schedule functions, whose last term is a shift (R84, R85). -/
theorem getLsbD_two_rotr_shr : (rotr x k ^^^ rotr x m ^^^ shr x n).getLsbD i =
    ((x.getLsbD ((i + k) % 32)).xor (x.getLsbD ((i + m) % 32))).xor (decide (i + n < 32) && x.getLsbD (i + n)) := by
  rw [BitVec.getLsbD_xor, BitVec.getLsbD_xor, getLsbD_rotr x hk hi, getLsbD_rotr x hm hi, getLsbD_shr]

end

/-! ### The obligations -/

/-- Settles O6, from the rule for one bit. -/
theorem rotrMovesEachBit : Obligations.RotrMovesEachBit :=
  ⟨fun _ _ => rfl, fun x _ _ _ hn hi => getLsbD_rotr x hn hi, fun _ _ _ _ hn h => rotr_injective hn h,
    fun _ _ hn => ⟨rotr_eq_self_of_const (fun _ _ => BitVec.getLsbD_zero) hn,
      rotr_eq_self_of_const (fun _ => getLsbD_ones) hn⟩,
    rotr_zero, by decide⟩

/-- Settles O7: the rule for one bit, and the examples. -/
theorem shrFillsWithZeros : Obligations.ShrFillsWithZeros :=
  ⟨fun x n i _ => (getLsbD_shr x n i).trans (Bool.if_false_right _ _).symm, by decide⟩

/-- Settles O8, from the choice and the vote of one bit. -/
theorem chChoosesAndMajVotes : Obligations.ChChoosesAndMajVotes :=
  ⟨fun e f g _ hi => getLsbD_ch e f g hi,
    fun a b c i _ => by rw [getLsbD_maj, atLeastTwo_iff],
    fun _ _ _ => rfl, fun _ _ _ => rfl,
    fun e f g => ⟨ch_ones f g, ch_zeros f g, ch_same e f⟩,
    fun x y => ⟨maj_same_left x y, maj_same_right x y, maj_not x y⟩, by decide⟩

/-- Settles O9: each function has one of the two shapes; its examples are closed. -/
theorem sigmaFunctionsBitByBit : Obligations.SigmaFunctionsBitByBit :=
  ⟨fun x _ hi =>
    ⟨getLsbD_three_rotr x (by decide) (by decide) hi (by decide),
      getLsbD_three_rotr x (by decide) (by decide) hi (by decide),
      getLsbD_two_rotr_shr x (by decide) (by decide) hi,
      getLsbD_two_rotr_shr x (by decide) (by decide) hi⟩,
    by decide, by decide, by decide, by decide⟩

end Sys2Proof.Machine
end

section
/-! PROOF. The block pipeline: packer, scheduler, rounds and accumulator, word by word (41_block_pipeline.md R91 to R100). -/

open Sys2Proof.Claims

namespace Sys2Proof.Machine

/-! ### The word packer (R91) -/

theorem packWord_toNat (b : Block) (t : Nat) : (packWord b t).toNat =
    (b.getD (4 * t) 0).toNat * 2 ^ 24 + (b.getD (4 * t + 1) 0).toNat * 2 ^ 16 +
      (b.getD (4 * t + 2) 0).toNat * 2 ^ 8 + (b.getD (4 * t + 3) 0).toNat := by
  rw [packWord, be32_toNat]
  omega

theorem packWord_zeros (n t : Nat) : packWord (List.replicate n 0) t = 0 := by
  have hbyte (i : Nat) : (List.replicate n (0 : Byte)).getD i 0 = 0 := by
    rw [List.getD_eq_getElem?_getD, List.getElem?_getD_replicate_default_eq]
  rw [packWord, hbyte, hbyte, hbyte, hbyte]
  decide

/-- W[t] after PACK, for the words it writes. -/
theorem pack_w_getD (b : Block) (c : CoreState) {t : Nat} (ht : t < 16) : (c.pack b).w.getD t 0 = packWord b t :=
  (packInto_getD b c.w t).trans (if_pos ht)

/-- Settles O10: the packed word is the base-256 reading of its four bytes. -/
theorem packIsBigEndian : Obligations.PackIsBigEndian := by
  refine ⟨fun b c _ => ⟨rfl, fun t ht => ?_, fun t ht _ => ?_⟩, fun c t ht => ?_, fun c => ?_⟩
  · rw [pack_w_getD b c ht, packWord_toNat]
  · exact (packInto_getD b c.w t).trans (if_neg (Nat.not_lt.mpr ht))
  · rw [pack_w_getD _ c ht, packWord_zeros]
  · rw [pack_w_getD _ c (by decide), pack_w_getD _ c (by decide), pack_w_getD _ c (by decide)]
    decide

/-! ### The message scheduler (R92, R93) -/

theorem scheduleWord_toNat (w : Vector Word 64) (t : Nat) : (scheduleWord w t).toNat =
    ((w.getD (t - 16) 0).toNat + (ssig0 (w.getD (t - 15) 0)).toNat + (w.getD (t - 7) 0).toNat +
      (ssig1 (w.getD (t - 2) 0)).toNat) % 2 ^ 32 := by
  simp only [scheduleWord, BitVec.toNat_add, Nat.mod_add_mod]

/-- Zeros give zero, since both schedule functions keep 0. -/
theorem scheduleInto_zeros {w : Vector Word 64} (hw : ∀ t, t < 16 → w.getD t 0 = 0) {t : Nat} (ht : t < 64) :
    (scheduleInto w).getD t 0 = 0 := by
  induction t using Nat.strong_induction_on with
  | _ t ih =>
    by_cases hlow : t < 16
    · rw [scheduleInto_getD_low w t hlow, hw t hlow]
    · rw [scheduleInto_getD w t (by omega) ht, scheduleWord, ih (t - 16) (by omega) (by omega),
        ih (t - 15) (by omega) (by omega), ih (t - 7) (by omega) (by omega), ih (t - 2) (by omega) (by omega)]
      decide

/-- What W held before a block is overwritten: the packer writes all 16 words the schedule is a function of. -/
theorem scheduleInto_packInto (b : Block) (w : Vector Word 64) : scheduleInto (packInto b w) = scheduleOf b :=
  scheduleInto_congr _ _ fun i hi => by rw [packInto_getD, packInto_getD, if_pos hi, if_pos hi]

/-- The "abc" schedule of 95_test_vectors.md T-PIPE-2, evaluated. -/
theorem scheduleOf_abcBlock : (scheduleOf abcBlock).getD 16 0 = 0x61626380 ∧ (scheduleOf abcBlock).getD 17 0 = 0x000F0000 ∧
    (scheduleOf abcBlock).getD 18 0 = 0x7DA86405 ∧ (scheduleOf abcBlock).getD 63 0 = 0x12B1EDEB := by
  decide +kernel

/-- Settles O12: the recurrence as a sum of numbers; the example starts from any W. -/
theorem scheduleRecurrence : Obligations.ScheduleRecurrence := by
  refine ⟨fun c => ⟨rfl, fun t ht => scheduleInto_getD_low c.w t ht, fun t hlow hhigh => ?_,
    fun hzero t ht => scheduleInto_zeros hzero ht⟩, fun c => ?_⟩
  · rw [CoreState.schedule_w, ← scheduleWord_toNat, ← scheduleInto_getD c.w t hlow hhigh]
  · rw [CoreState.schedule_w, CoreState.pack_w, scheduleInto_packInto]
    exact scheduleOf_abcBlock

/-- Settles O13: both schedules are the block's. -/
theorem scheduleDependsOnlyOnTheBlock : Obligations.ScheduleDependsOnlyOnTheBlock := fun b c c' =>
  ⟨(scheduleInto_packInto b c.w).trans (scheduleInto_packInto b c'.w).symm, scheduleInto_packInto b c.w⟩

/-! ### Loading the working variables (R94) -/

theorem loadWorking_eq (h : Vector Word 8) : loadWorking h =
    { a := h[0], b := h[1], c := h[2], d := h[3], e := h[4], f := h[5], g := h[6], h := h[7] } := by
  simp only [loadWorking, Vector_getD_eq, Nat.reduceLT]

/-- Settles O14: the loads entry by entry; after INIT, H is the table IV. -/
theorem initVarsLoadsTheDigest : Obligations.InitVarsLoadsTheDigest :=
  ⟨fun c => ⟨rfl, loadWorking_eq c.h⟩, fun _ => ⟨rfl, rfl⟩⟩

/-! ### The rounds (R95, R96) -/

theorem roundT1_toNat (w : Vector Word 64) (t : Nat) (v : Working) : (roundT1 w t v).toNat =
    (v.h.toNat + (bsig1 v.e).toNat + (ch v.e v.f v.g).toNat + (roundConstant t).toNat + (w.getD t 0).toNat) % 2 ^ 32 := by
  simp only [roundT1, BitVec.toNat_add, Nat.mod_add_mod]

theorem roundT2_toNat (v : Working) : (roundT2 v).toNat = ((bsig0 v.a).toNat + (maj v.a v.b v.c).toNat) % 2 ^ 32 :=
  BitVec.toNat_add _ _

/-- Round 0 of the "abc" block, 95_test_vectors.md T-PIPE-3: its two computed variables. -/
theorem roundOnce_abcBlock : (roundOnce (scheduleOf abcBlock) 0 (loadWorking initialDigest)).a = 0x5D6AEBCD ∧
    (roundOnce (scheduleOf abcBlock) 0 (loadWorking initialDigest)).e = 0xFA2A4622 := by
  decide +kernel

/-- Settles O15: only a and e are computed; the other six are moved, in either reading. -/
theorem roundAssignsSimultaneously : Obligations.RoundAssignsSimultaneously := by
  refine ⟨fun w t v _ => ⟨?_, rfl, rfl, rfl, ?_, rfl, rfl, rfl⟩, fun _ _ _ => rfl, ?_⟩
  · rw [← roundT1_toNat, ← roundT2_toNat]
    exact BitVec.toNat_add _ _
  · rw [← roundT1_toNat]
    exact BitVec.toNat_add _ _
  · rintro v rfl
    obtain ⟨ha, he⟩ := roundOnce_abcBlock
    exact ⟨ha, he, rfl, rfl⟩

/-- A loop ends in the n-th member of the sequence that its body steps through. -/
theorem forRange_eq_of_steps {α : Type} {lo n : Nat} {body : Nat → α → α} {x : α} {f : Nat → α} (h0 : f 0 = x)
    (hstep : ∀ t, t < n → f (t + 1) = body (lo + t) (f t)) : forRange lo n body x = f n :=
  forRange_induct (fun k y => y = f k) lo n body x h0.symm fun k y hk hy => by rw [hy, hstep k hk]

/-- Settles O16: the round sequence is that loop, from 0 with 64 turns. -/
theorem sixtyFourRoundsInOrder : Obligations.SixtyFourRoundsInOrder := by
  intro c f h0 hstep
  have hrounds : roundAll c.w c.wv = f 64 := by
    rw [roundAll_eq]
    exact forRange_eq_of_steps h0 fun t ht => by rw [Nat.zero_add, hstep t ht]
  rw [CoreState.rounds, hrounds]

/-! ### The accumulator and the whole compression (R97, R98, R100) -/

theorem accumulateInto_getElem (h : Vector Word 8) (v : Working) (i : Fin 8) :
    (accumulateInto h v)[i] = h[i] + [v.a, v.b, v.c, v.d, v.e, v.f, v.g, v.h].getD i 0 := by
  have hword : (accumulateInto h v)[i] = h.getD i 0 + [v.a, v.b, v.c, v.d, v.e, v.f, v.g, v.h].getD i 0 := by
    fin_cases i <;> rfl
  rw [hword, Vector_getD_eq h i i.isLt, Fin.getElem_fin]

/-- Settles O17: a compression ends in ACCUMULATE, and what it runs before writes W and a..h only. -/
theorem accumulateAddsEachWord : Obligations.AccumulateAddsEachWord := by
  refine ⟨fun c => ⟨rfl, fun i => ?_⟩, fun b c => ⟨_, rfl, rfl, rfl⟩, fun c hh ha => ?_⟩
  · rw [CoreState.accumulate_h, accumulateInto_getElem, BitVec.toNat_add]
  · have hsum : c.accumulate.h[0] = c.h[0] + c.wv.a := accumulateInto_getElem c.h c.wv 0
    rw [hsum, hh, ha]
    decide

/-- Settles O18: H is the lemma of the pure function; the frame and the order hold by definition. -/
theorem coreCompressionIsCompress : Obligations.CoreCompressionIsCompress := fun b c _ =>
  ⟨c.compressBlock_h b, rfl, rfl⟩

/-- a..h after round 63 of the "abc" block, 95_test_vectors.md T-PIPE-3, evaluated. -/
theorem roundAll_abcBlock : roundAll (scheduleOf abcBlock) (loadWorking initialDigest) =
    { a := 0x506E3058, b := 0xD39A2165, c := 0x04D24D6C, d := 0xB85E2CE9,
      e := 0x5EF50F24, f := 0xFB121210, g := 0x948D25B6, h := 0x961F4894 } := by
  decide +kernel

/-- Settles O19: the digest is IV plus the variables after round 63. -/
theorem abcBlockCompresses : Obligations.AbcBlockCompresses := by
  refine ⟨roundAll_abcBlock, ?_⟩
  rw [compress, roundAll_abcBlock]
  decide

end Sys2Proof.Machine
end

section
/-! PROOF. The padding engine: the blocks of a final chunk, PAD(M), and PADFINAL (42_padding_engine.md R108 to R116). -/

open Sys2Proof.Claims

namespace Sys2Proof.Machine

/-! ### The blocks of a final chunk (R113, R114) -/

theorem be64_eq_lengthBytes (l : Word64) : be64 l = lengthBytes l := by
  refine List.map_congr_left fun k hk => ?_
  have hlt : k < 8 := List.mem_range.1 hk
  rw [BitVec.extractLsb', Nat.shiftRight_eq_div_pow, show 56 - 8 * k = 8 * (7 - k) by omega]

theorem zeroBytes_append (j k : Nat) : zeroBytes j ++ zeroBytes k = zeroBytes (j + k) :=
  List.replicate_append_replicate

/-- Without its last 8 bytes the marker's block is the chunk, 0x80 and zeros. -/
theorem markedBlock_take_56 {chunk : List Byte} (h : chunk.length ≤ 55) :
    (markedBlock chunk).take 56 = chunk ++ [0x80] ++ zeroBytes (55 - chunk.length) := by
  rw [markedBlock, show 63 - chunk.length = 55 - chunk.length + 8 by omega, ← zeroBytes_append, ← List.append_assoc, List.take_left']
  simp only [List.length_append, List.length_singleton, zeroBytes_length]
  omega

theorem padBlocks_of_le {chunk : List Byte} (l : Word64) (h : chunk.length ≤ 55) :
    padBlocks chunk l = [chunk ++ [0x80] ++ zeroBytes (55 - chunk.length) ++ be64 l] := by
  rw [padBlocks, lengthFits, if_pos (decide_eq_true h), markedBlock_take_56 h]

theorem padBlocks_of_gt {chunk : List Byte} (l : Word64) (h : ¬ chunk.length ≤ 55) :
    padBlocks chunk l = [markedBlock chunk, zeroBytes 56 ++ be64 l] := by
  rw [padBlocks, lengthFits, if_neg (by simpa using h)]

theorem padBlocks_eq_finalBlocks (chunk : List Byte) (l : Word64) : padBlocks chunk l = finalBlocks chunk l := by
  rw [finalBlocks, ← be64_eq_lengthBytes]
  split_ifs with hfits
  · exact padBlocks_of_le l hfits
  · exact padBlocks_of_gt l hfits

theorem padBlocks_length (chunk : List Byte) (l : Word64) :
    (padBlocks chunk l).length = if chunk.length ≤ 55 then 1 else 2 := by
  rw [padBlocks_eq_finalBlocks, finalBlocks]
  split_ifs <;> rfl

/-- The bytes after M's full chunks. -/
theorem rest_length (m : List Byte) : (m.drop (64 * (m.length / 64))).length = m.length % 64 := by
  rw [List.length_drop]
  omega

theorem rest_length_lt (m : List Byte) : (m.drop (64 * (m.length / 64))).length < 64 := by
  rw [rest_length]
  exact Nat.mod_lt _ (by decide)

/-- Settles O24: the number of blocks is the test on the chunk's length, and the chunk left of M has L mod 64 bytes. -/
theorem roomForTheLength : Obligations.RoomForTheLength := by
  refine ⟨fun chunk l _ => ?_, fun m l => ?_⟩
  · rw [padBlocks_length]
    split_ifs <;> omega
  · rw [padBlocks_length, rest_length, blockCount]

/-! ### The length field (R108) -/

theorem be64_getD (l : Word64) {k : Nat} (hk : k < 8) :
    ((be64 l).getD k 0).toNat = l.toNat / 2 ^ (8 * (7 - k)) % 2 ^ 8 := by
  simp [be64_eq_lengthBytes, lengthBytes, hk]

/-- The last block ends in the length, whether it is the marker's block or not. -/
theorem padBlocks_getLast {chunk : List Byte} (l : Word64) (h : chunk.length < 64) :
    ∃ front : List Byte, front.length = 56 ∧ (padBlocks chunk l).getLast? = some (front ++ be64 l) := by
  by_cases hfits : chunk.length ≤ 55
  · refine ⟨chunk ++ [0x80] ++ zeroBytes (55 - chunk.length), ?_, by rw [padBlocks_of_le l hfits]; rfl⟩
    simp only [List.length_append, List.length_singleton, zeroBytes_length]
    omega
  · exact ⟨zeroBytes 56, zeroBytes_length 56, by rw [padBlocks_of_gt l hfits]; rfl⟩

theorem padBlocks_getLast_getD {chunk : List Byte} {l : Word64} {p : Block} (h : chunk.length < 64)
    (hp : (padBlocks chunk l).getLast? = some p) {k : Nat} (hk : k < 8) :
    (p.getD (56 + k) 0).toNat = l.toNat / 2 ^ (8 * (7 - k)) % 2 ^ 8 := by
  obtain ⟨front, hfront, hlast⟩ := padBlocks_getLast l h
  obtain rfl : front ++ be64 l = p := Option.some.inj (hlast.symm.trans hp)
  rw [List.getD_append_right _ _ _ _ (by omega), hfront, Nat.add_sub_cancel_left, be64_getD l hk]

/-- The schedule of a block begins with its packed words. -/
theorem scheduleOf_getD_low (b : Block) {t : Nat} (ht : t < 16) : (scheduleOf b).getD t 0 = packWord b t := by
  rw [scheduleOf, scheduleInto_getD_low _ _ ht, packInto_getD, if_pos ht]

/-- Settles O20: the last block ends in the length's bytes, and its last two packed words read them back. -/
theorem lengthFieldIsBigEndian : Obligations.LengthFieldIsBigEndian := by
  refine ⟨fun chunk l k h hk => ?_, fun chunk l p h hp => ?_, by decide⟩
  · obtain ⟨front, -, hlast⟩ := padBlocks_getLast l h
    rw [hlast, Option.map_some, padBlocks_getLast_getD h hlast hk]
  · have hbyte {k : Nat} := padBlocks_getLast_getD h hp (k := k)
    have hlt : l.toNat < 2 ^ 64 := l.isLt
    rw [scheduleOf_getD_low p (by decide), scheduleOf_getD_low p (by decide), packWord_toNat, packWord_toNat]
    simp only [Nat.reduceMul, Nat.reduceAdd]
    constructor
    · rw [hbyte (k := 0) (by decide), hbyte (k := 1) (by decide), hbyte (k := 2) (by decide), hbyte (k := 3) (by decide)]
      omega
    · rw [hbyte (k := 4) (by decide), hbyte (k := 5) (by decide), hbyte (k := 6) (by decide), hbyte (k := 7) (by decide)]
      omega

/-! ### The padded message (R109, R110) -/

/-- Settles O21: a number of zeros below 64 is determined by its residue, so no smaller one leaves 8 bytes. -/
theorem paddedMessageShape : Obligations.PaddedMessageShape := by
  intro m
  refine ⟨(55 + 64 - m.length % 64) % 64, by omega, by omega, ?_, by omega, fun k' hk' => by omega⟩
  have hmod : BitVec.ofNat 64 (8 * m.length % 2 ^ 64) = bitLength m := BitVec.eq_of_toNat_eq (by simp [bitLength])
  rw [padMessage, be64_eq_lengthBytes, zeroBytes, hmod]

/-- Settles O22: both sides of each equation are arithmetic in the message's length. -/
theorem blockCountOfPaddedMessage : Obligations.BlockCountOfPaddedMessage := by
  refine ⟨fun m => ?_, fun l => ⟨rfl, ?_⟩, rfl, rfl, rfl, rfl, rfl, rfl, rfl⟩
  · simp only [padMessage, blockCount, List.length_append, List.length_singleton, zeroBytes_length, be64_length]
    split_ifs <;> omega
  · rw [blockCount]
    split_ifs <;> omega

/-! ### PADFINAL (R113, R115) -/

theorem lenAfter_eq_ofNat (len : Word64) (n : Nat) : lenAfter len n = BitVec.ofNat 64 (len.toNat + 8 * n) := by
  rw [lenAfter, BitVec.ofNat_add, BitVec.ofNat_toNat, BitVec.setWidth_eq]

/-- Settles O23: the frame of PADFINAL, and its blocks in the written-out form. -/
theorem padFinalEffect : Obligations.PadFinalEffect := by
  intro c n hn
  have hblocks : padBlocks (dataBytes c.data n) (lenAfter c.len n) =
      finalBlocks (bufferBytes c.data n) (BitVec.ofNat 64 (c.len.toNat + 8 * n)) := by
    rw [padBlocks_eq_finalBlocks, dataBytes_eq_bufferBytes, lenAfter_eq_ofNat]
  refine ⟨?_, ?_, ?_, ?_⟩
  · rw [padFinal_h, hblocks]
  · rw [padFinal_blkcnt, padBlocks_length, dataBytes_length]
    split_ifs <;> rfl
  · rw [← lenAfter_eq_ofNat, padFinal_blkcnt]
    exact padFinal_frame n c
  · rw [← hblocks]
    exact padBlocks_length_64 _ _ (by rwa [dataBytes_length])

theorem dataBytes_congr {data data' : Vector Word 16} {n : Nat} (h : ∀ k, k < n → dataByte data k = dataByte data' k) :
    dataBytes data n = dataBytes data' n :=
  List.map_congr_left fun k hk => h k (List.mem_range.1 hk)

/-- Settles O25: PADFINAL reads DATA through the bytes of the chunk only. -/
theorem finalIgnoresLaterBytes : Obligations.FinalIgnoresLaterBytes := by
  intro c c' n _ hh hlen hblkcnt hdata
  rw [padFinal_h, padFinal_h, CoreState.padFinal_len, CoreState.padFinal_len, padFinal_blkcnt, padFinal_blkcnt,
    dataBytes_congr hdata, hh, hlen, hblkcnt]
  exact ⟨rfl, rfl, rfl⟩

/-! ### Splitting a byte sequence into blocks (R116) -/

@[simp] theorem blocksOf_length (k : Nat) (bs : List Byte) : (blocksOf k bs).length = k := by
  induction k generalizing bs with
  | zero => rfl
  | succ k ih => rw [blocksOf, List.length_cons, ih]

theorem length_of_mem_blocksOf {k : Nat} {bs : List Byte} (h : 64 * k ≤ bs.length) :
    ∀ b ∈ blocksOf k bs, b.length = 64 := by
  induction k generalizing bs with
  | zero => simp [blocksOf]
  | succ k ih =>
    rw [blocksOf, List.forall_mem_cons, List.length_take]
    exact ⟨by omega, ih (by rw [List.length_drop]; omega)⟩

theorem flatten_blocksOf (k : Nat) (bs : List Byte) : (blocksOf k bs).flatten = bs.take (64 * k) := by
  induction k generalizing bs with
  | zero => rfl
  | succ k ih => rw [blocksOf, List.flatten_cons, ih, ← List.take_add, Nat.mul_add_one, Nat.add_comm]

/-- Whole blocks written one after another split into themselves. -/
theorem blocksOf_flatten {blocks : List Block} (h : ∀ b ∈ blocks, b.length = 64) :
    blocksOf blocks.length blocks.flatten = blocks := by
  induction blocks with
  | nil => rfl
  | cons b blocks ih =>
    obtain ⟨hb, hrest⟩ := List.forall_mem_cons.1 h
    rw [List.length_cons, List.flatten_cons, blocksOf, List.take_left' hb, List.drop_left' hb, ih hrest]

/-- The zeros between the marker and the length are as many as R109 says, in one block or two. -/
theorem flatten_padBlocks {chunk : List Byte} (l : Word64) (h : chunk.length < 64) :
    (padBlocks chunk l).flatten = chunk ++ [0x80] ++ zeroBytes ((55 + 64 - chunk.length) % 64) ++ be64 l := by
  by_cases hfits : chunk.length ≤ 55
  · rw [padBlocks_of_le l hfits, List.flatten_singleton, show (55 + 64 - chunk.length) % 64 = 55 - chunk.length by omega]
  · have hzeros : (55 + 64 - chunk.length) % 64 = 63 - chunk.length + 56 := by omega
    simp [padBlocks_of_gt l hfits, markedBlock, hzeros, ← zeroBytes_append]

/-- PAD(M) is M's full chunks and the blocks of the rest, one after another. -/
theorem padMessage_eq_flatten (m : List Byte) : padMessage m =
    (blocksOf (m.length / 64) m ++ padBlocks (m.drop (64 * (m.length / 64))) (bitLength m)).flatten := by
  rw [List.flatten_append, flatten_blocksOf, flatten_padBlocks _ (rest_length_lt m), rest_length, padMessage]
  simp only [← List.append_assoc, List.take_append_drop]

theorem streamBlocks_length (m : List Byte) (l : Word64) :
    (blocksOf (m.length / 64) m ++ padBlocks (m.drop (64 * (m.length / 64))) l).length = blockCount m.length := by
  rw [List.length_append, blocksOf_length]
  exact (roomForTheLength.2 m l).symm

/-- Settles O26: these blocks are whole and NB(L) in number, so splitting PAD(M) gives them back. -/
theorem streamBlocksArePaddedMessage : Obligations.StreamBlocksArePaddedMessage := by
  intro m
  have hwhole := List.forall_mem_append.2
    ⟨length_of_mem_blocksOf (Nat.mul_div_le m.length 64), padBlocks_length_64 _ (bitLength m) (rest_length_lt m)⟩
  refine ⟨?_, ?_⟩
  · rw [padMessage_eq_flatten, ← streamBlocks_length, blocksOf_flatten hwhole]
  · rw [flatten_blocksOf, List.take_of_length_le (blockCountOfPaddedMessage.1 m).le]

end Sys2Proof.Machine
end

section
/-! PROOF. The command sequence HASH M, event by event (42_padding_engine.md R117, 30_encoding.md R67, R68). -/

namespace Sys2Proof.Machine

/-! ### Runs through a list of events -/

/-- The machine performs the events `es`, whatever waits behind them, and goes from `s` to `t` (the agendas of `s` and `t`
do not count). -/
def Runs (es : List Event) (s t : State) : Prop :=
  ∀ rest, Reaches es.length { s with agenda := es ++ rest } { t with agenda := rest }

theorem runs_nil (s : State) : Runs [] s s := fun _ => reaches_zero _

theorem runs_singleton {e : Event} {s t : State}
    (h : ∀ rest, step { s with agenda := e :: rest } = .next { t with agenda := rest }) : Runs [e] s t :=
  fun rest => reaches_succ (h rest) (reaches_zero _)

theorem Runs.append {es es' : List Event} {s u t : State} (h : Runs es s u) (h' : Runs es' u t) : Runs (es ++ es') s t := by
  intro rest
  rw [List.length_append, List.append_assoc]
  exact reaches_add (h _) (h' rest)

/-! ### Reads -/

/-- A read whose value is specified returns it and leaves the block alone (44_bus_access.md R146). -/
theorem runs_rd {s : State} {off : Nat} (hoff : off % 4 = 0 ∧ off < 256)
    (hsafe : s.core.busy = false ∨ busyHazard off = false) : Runs [rd off] s (s.answer (s.core.readRegister off)) := by
  refine runs_singleton fun rest => ?_
  rw [step_rd s rest off hoff.1 hoff.2]
  obtain hidle | hsafe := hsafe
  · rw [busRead_idle off { s with agenda := rest } hidle]; rfl
  · rw [busRead_safe off { s with agenda := rest } hsafe]; rfl

/-- Reads one after another return their words, newest first. -/
theorem runs_rds {offs : List Nat} {s : State} (hoff : ∀ off ∈ offs, off % 4 = 0 ∧ off < 256)
    (hsafe : ∀ off ∈ offs, s.core.busy = false ∨ busyHazard off = false) :
    Runs (offs.map rd) s { s with reads := (offs.map fun off => s.core.readRegister off).reverse ++ s.reads } := by
  induction offs generalizing s with
  | nil => exact runs_nil s
  | cons off offs ih =>
    obtain ⟨hoff0, hoffs⟩ := List.forall_mem_cons.1 hoff
    obtain ⟨hsafe0, hsafes⟩ := List.forall_mem_cons.1 hsafe
    have hrest := (runs_rd hoff0 hsafe0).append (ih (s := s.answer (s.core.readRegister off)) hoffs hsafes)
    simpa [State.answer] using hrest

/-- RDDIGEST returns H. -/
theorem runs_rdDigest {s : State} (hidle : s.core.busy = false) :
    Runs rdDigest s { s with reads := s.core.h.toList.reverse ++ s.reads } := by
  have hwords : ((List.range 8).map fun i => 0x20 + 4 * i).map (fun off => s.core.readRegister off) = s.core.h.toList := by
    refine List.ext_getElem (by simp) fun i hi _ => ?_
    have hi8 : i < 8 := by simpa using hi
    simpa using readRegister_digest s.core ⟨i, hi8⟩
  have hrun := runs_rds (offs := (List.range 8).map fun i => 0x20 + 4 * i) (s := s) (by decide) fun _ _ => .inl hidle
  rw [hwords, List.map_map] at hrun
  exact hrun

/-- POLL lets the core take its turn; its reads of STATUS leave the block alone (30_encoding.md R67). -/
theorem runs_poll (k : Nat) (s : State) : ∃ t, Runs (poll k) s t ∧ t.core = s.core.turn := by
  have hwait := runs_rds (offs := List.replicate k 0x04) (s := s) (fun off h => by rw [List.eq_of_mem_replicate h]; decide)
    fun off h => .inr (by rw [List.eq_of_mem_replicate h]; decide)
  rw [List.map_replicate] at hwait
  have hturn (s : State) : Runs [.core] s (s.mapCore CoreState.turn) := runs_singleton fun rest => step_core rfl
  exact ⟨_, hwait.append ((hturn _).append (runs_rd (off := 0x04) (by decide) (.inl (turn_busy s.core)))), rfl⟩

/-! ### Writes -/

/-- The write of a command's word runs the command's meaning. -/
theorem runs_cmd {i : Instr} {s t : State} (hi : i.WellFormed) (hidle : s.core.busy = false)
    (hexec : ∀ rest, exec i { s with agenda := rest } = .next { t with agenda := rest }) : Runs [cmd i] s t :=
  runs_singleton fun rest => by
    rw [cmd, step_cmd, issueCommand_ok _ { s with agenda := rest } i hidle (decode_encode hi), hexec]

theorem runs_loadW {s : State} (hidle : s.core.busy = false) {j : Nat} (hj : j < 16) (v : Word) :
    Runs [loadW j v] s (s.mapCore (CoreState.setData j v)) :=
  runs_singleton fun rest => by
    rw [loadW, step_data s rest ⟨j, hj⟩ v, writeData_idle j v { s with agenda := rest } hidle]
    rfl

/-- LOADBLK writes the words of the chunk to DATA and nothing else (44_bus_access.md R150, R153). -/
theorem runs_loadWords {s : State} (hidle : s.core.busy = false) (chunk : Block) {n : Nat} (hn : n ≤ 16) :
    ∃ data : Vector Word 16, (∀ j, j < n → data.getD j 0 = packWord chunk j) ∧
      Runs ((List.range n).map fun j => loadW j (packWord chunk j)) s (s.mapCore fun c => { c with data := data }) := by
  induction n with
  | zero => exact ⟨s.core.data, by simp, runs_nil s⟩
  | succ n ih =>
    obtain ⟨data, hdata, hrun⟩ := ih (by omega)
    refine ⟨data.setIfInBounds n (packWord chunk n), fun j hj => ?_, ?_⟩
    · rw [Vector_getD_setIfInBounds _ _ _ _ (by omega)]
      split_ifs with hjn
      · rw [hjn]
      · exact hdata j (by omega)
    · rw [List.range_succ, List.map_append]
      exact hrun.append (runs_loadW (by exact hidle) (by omega) _)

/-! ### The bytes of a loaded chunk -/

/-- Byte k of word t of a block is byte 4t + k of the block. -/
theorem wordByte_packWord (b : Block) (t : Nat) {k : Nat} (hk : k < 4) :
    wordByte (packWord b t) k = b.getD (4 * t + k) 0 := by
  apply BitVec.eq_of_toNat_eq
  rw [wordByte_eq_ofNat, BitVec.toNat_ofNat, packWord_toNat]
  interval_cases k
  · change _ = (b.getD (4 * t) 0).toNat
    omega
  all_goals omega

/-- After LOADBLK the bytes of DATA are those of the chunk (10_state.md R25). -/
theorem dataByte_of_loaded {data : Vector Word 16} {chunk : Block}
    (hdata : ∀ j, j < 16 → data.getD j 0 = packWord chunk j) {k : Nat} (hk : k < 64) :
    dataByte data k = chunk.getD k 0 := by
  rw [dataByte, hdata (k / 4) (by omega), wordByte_packWord chunk _ (by omega), Nat.div_add_mod]

theorem dataBytes_of_loaded {data : Vector Word 16} {chunk fill : List Byte}
    (hdata : ∀ j, j < 16 → data.getD j 0 = packWord (chunk ++ fill) j) (h : chunk.length ≤ 64) :
    dataBytes data chunk.length = chunk := by
  refine List.ext_getElem (dataBytes_length _ _) fun k hk hk' => ?_
  rw [← List.getD_eq_getElem _ 0 hk, dataBytes_getD data hk', dataByte_of_loaded hdata (by omega),
    List.getD_append _ _ _ _ hk', List.getD_eq_getElem _ 0 hk']

/-! ### BLOCK and FINAL with their chunk -/

/-- LOADBLK, an accepted BLOCK or FINAL, POLL: the core has completed the command on the bytes loaded (43_commands.md R128,
R133). -/
theorem runs_pending {i : Instr} {op : Op} {n : Fin 64} {s : State} (hi : i.WellFormed)
    (hexec : ∀ s, exec i s = issuePending op n s) (hidle : s.core.busy = false) (hphase : s.core.phase = .absorb)
    (k : Nat) (chunk : Block) :
    ∃ t, ∃ data : Vector Word 16, Runs (loadBlk chunk ++ [cmd i] ++ poll k) s t ∧
      (∀ j, j < 16 → data.getD j 0 = packWord chunk j) ∧
      t.core = (CoreState.accept op n { s.core with data := data }).turn := by
  obtain ⟨data, hdata, hload⟩ := runs_loadWords hidle chunk (n := 16) le_rfl
  have hcmd := runs_cmd (s := s.mapCore fun c => { c with data := data })
    (t := (s.mapCore fun c => { c with data := data }).mapCore (CoreState.accept op n)) hi hidle fun rest => by
      rw [hexec, issuePending_absorb op n _ (by exact hidle) (by exact hphase)]
      rfl
  obtain ⟨t, hpoll, ht⟩ := runs_poll k ((s.mapCore fun c => { c with data := data }).mapCore (CoreState.accept op n))
  exact ⟨t, data, (Runs.append hload hcmd).append hpoll, hdata, ht⟩

/-- The block with no command in flight after INIT and a BLOCK for each of `blocks`: what R116 says of H, LEN and BLKCNT. -/
structure Absorbed (blocks : List Block) (c : CoreState) : Prop where
  idle : c.busy = false
  absorb : c.phase = .absorb
  err : c.err = false
  errcode : c.errcode = 0
  h : c.h = blocks.foldl compress initialDigest
  len : c.len = BitVec.ofNat 64 (512 * blocks.length)
  blkcnt : c.blkcnt = BitVec.ofNat 32 blocks.length

theorem absorbed_startHash {c : CoreState} (hidle : c.busy = false) : Absorbed [] c.startHash :=
  ⟨hidle, rfl, rfl, rfl, rfl, rfl, rfl⟩

/-- The completion of BLOCK absorbs the bytes of DATA (43_commands.md R131). -/
theorem Absorbed.block {blocks : List Block} {c : CoreState} (h : Absorbed blocks c) (data : Vector Word 16) :
    Absorbed (blocks ++ [dataBytes data 64]) (CoreState.accept .block 0 { c with data := data }).turn := by
  rw [turn_block _ 0 rfl rfl]
  refine ⟨rfl, h.absorb, h.err, h.errcode, ?_, ?_, ?_⟩
  · simp [h.h]
  · simp [h.len, Nat.mul_add, BitVec.ofNat_add]
  · simp [h.blkcnt, BitVec.ofNat_add]

/-- The block with no command in flight after a FINAL: the hash of `blocks`, its length and its count, and STATUS = 2
(43_commands.md R132). -/
structure Finished (blocks : List Block) (len : Word64) (c : CoreState) : Prop where
  idle : c.busy = false
  h : c.h = blocks.foldl compress initialDigest
  len_eq : c.len = len
  blkcnt : c.blkcnt = BitVec.ofNat 32 blocks.length
  status : c.status = 0x00000002

theorem status_of_done {c : CoreState} (hidle : c.busy = false) (hphase : c.phase = .done) (herr : c.err = false)
    (hcode : c.errcode = 0) : c.status = 0x00000002 := by
  simp [CoreState.status, CoreState.doneBit, hidle, hphase, herr, hcode]

/-- The completion of FINAL absorbs the blocks the padding engine makes, and finishes the hash (43_commands.md R132). -/
theorem Absorbed.final {blocks : List Block} {c : CoreState} (h : Absorbed blocks c) (n : Fin 64) (data : Vector Word 16) :
    Finished (blocks ++ padBlocks (dataBytes data n) (lenAfter c.len n)) (lenAfter c.len n)
      (CoreState.accept .final n { c with data := data }).turn := by
  rw [turn_final _ n rfl rfl]
  refine ⟨rfl, ?_, ?_, ?_, status_of_done rfl rfl ?_ ?_⟩
  · simp [padFinal_h, h.h]
  · simp
  · simp [padFinal_blkcnt, h.blkcnt, BitVec.ofNat_add]
  · simp [h.err]
  · simp [h.errcode]

/-! ### HASH M -/

theorem Absorbed.runs_blockEvents {blocks : List Block} {s : State} (h : Absorbed blocks s.core) (k : Nat) {chunk : Block}
    (hchunk : chunk.length = 64) : ∃ t, Runs (blockEvents k chunk) s t ∧ Absorbed (blocks ++ [chunk]) t.core := by
  obtain ⟨t, data, hrun, hdata, ht⟩ := runs_pending (i := .block) rfl (fun _ => rfl) h.idle h.absorb k chunk
  have hbytes : dataBytes data 64 = chunk := by
    rw [← hchunk]
    exact dataBytes_of_loaded (fill := []) (by simpa using hdata) hchunk.le
  exact ⟨t, hrun, by rw [ht, ← hbytes]; exact h.block data⟩

/-- The full chunks, in order. -/
theorem Absorbed.runs_chunkEvents {blocks : List Block} {s : State} (h : Absorbed blocks s.core) (lat : Nat → Nat)
    {q : Nat} {m : List Byte} (hm : 64 * q ≤ m.length) :
    ∃ t, Runs (chunkEvents lat q m) s t ∧ Absorbed (blocks ++ blocksOf q m) t.core := by
  induction q generalizing blocks s m with
  | zero => exact ⟨s, runs_nil s, by simpa [blocksOf] using h⟩
  | succ q ih =>
    obtain ⟨u, hblock, hu⟩ := h.runs_blockEvents (lat q) (chunk := m.take 64) (by rw [List.length_take]; omega)
    obtain ⟨t, hrest, ht⟩ := ih hu (m := m.drop 64) (by rw [List.length_drop]; omega)
    exact ⟨t, hblock.append hrest, by simpa [blocksOf] using ht⟩

/-- The last bytes, whatever fills the rest of the buffer, and the digest. -/
theorem Absorbed.runs_finalEvents {blocks : List Block} {s : State} (h : Absorbed blocks s.core) (k : Nat)
    {tail : List Byte} (fill : List Byte) (htail : tail.length < 64) :
    ∃ t, Runs (finalEvents k tail fill) s t ∧ t.reads.take 8 = t.core.h.toList.reverse ∧
      Finished (blocks ++ padBlocks tail (lenAfter s.core.len tail.length)) (lenAfter s.core.len tail.length) t.core := by
  obtain ⟨u, data, hrun, hdata, hu⟩ := runs_pending (i := .final tail.length) (op := .final) (n := ⟨tail.length, htail⟩)
    (decide_eq_true htail) (execFinal_fin ⟨tail.length, htail⟩) h.idle h.absorb k (tail ++ fill)
  have hfinished := h.final ⟨tail.length, htail⟩ data
  rw [← hu, dataBytes_of_loaded hdata htail.le] at hfinished
  exact ⟨_, hrun.append (runs_rdDigest hfinished.idle), by simp, hfinished⟩

/-- LEN after the full chunks and the rest is LBITS(M) (42_padding_engine.md R116). -/
theorem lenAfter_rest (m : List Byte) : lenAfter (BitVec.ofNat 64 (512 * (m.length / 64)))
    (m.drop (64 * (m.length / 64))).length = bitLength m := by
  rw [lenAfter, ← BitVec.ofNat_add, rest_length, bitLength]
  congr 1
  omega

theorem runs_hashEvents {s : State} (hidle : s.core.busy = false) (m fill : List Byte) (lat : Nat → Nat) (k : Nat) :
    ∃ t, Runs (hashEvents lat k fill m) s t ∧ t.reads.take 8 = t.core.h.toList.reverse ∧
      Finished (blocksOf (m.length / 64) m ++ padBlocks (m.drop (64 * (m.length / 64))) (bitLength m)) (bitLength m)
        t.core := by
  have hinit : Runs [cmd .init] s (s.mapCore CoreState.startHash) :=
    runs_cmd rfl hidle fun rest => execInit_idle { s with agenda := rest } hidle
  obtain ⟨u, hchunks, hu⟩ := (absorbed_startHash hidle).runs_chunkEvents (s := s.mapCore CoreState.startHash) lat
    (Nat.mul_div_le m.length 64)
  obtain ⟨t, hfinal, hreads, ht⟩ := hu.runs_finalEvents k fill (rest_length_lt m)
  rw [hu.len, List.nil_append, blocksOf_length, lenAfter_rest] at ht
  exact ⟨t, hinit.append (hchunks.append hfinal), hreads, ht⟩

/-- Settles O27: the blocks absorbed are those of PAD(M), so what `Finished` says is what the statement asks. -/
theorem hashSequenceGivesSha256 : Obligations.HashSequenceGivesSha256 := by
  intro s m fill lat k hidle
  obtain ⟨t, hrun, hreads, ht⟩ := runs_hashEvents hidle m fill lat k
  refine ⟨{ t with agenda := s.agenda }, hrun s.agenda, ?_, hreads, ht.len_eq, ?_, ht.status, rfl⟩
  · rw [(streamBlocksArePaddedMessage m).1]
    exact ht.h
  · rw [← streamBlocks_length m (bitLength m)]
    exact ht.blkcnt

end Sys2Proof.Machine
end

section
/-! PROOF. The commands: the checks of a CMD write, acceptance, and the completion of BLOCK and FINAL (43_commands.md R126 to
R134). -/

open Sys2Proof.Claims

namespace Sys2Proof.Machine

/-! ### The meanings -/

theorem exec_init (s : State) : exec .init s = execInit s := rfl

theorem exec_block (s : State) : exec .block s = issuePending .block 0 s := rfl

theorem exec_final (n : Fin 64) (s : State) : exec (.final n) s = issuePending .final n s := execFinal_fin n s

/-! ### The write of a command word (R126, R127, R129) -/

theorem step_cmd_busy {s : State} (rest : List Event) (v : Word) (hbusy : s.core.busy = true) :
    step { s with agenda := wr 0x00 v :: rest } = .next (rejected 4 rest s) := by
  rw [step_cmd, issueCommand_busy v { s with agenda := rest } hbusy]
  rfl

theorem step_cmd_ok {s : State} (rest : List Event) {v : Word} {i : Instr} (hbusy : s.core.busy = false)
    (hd : decode v = .ok i) : step { s with agenda := wr 0x00 v :: rest } = exec i { s with agenda := rest } := by
  rw [step_cmd, issueCommand_ok v { s with agenda := rest } i hbusy hd]

/-- Settles O34: the next event is the write, and the fetched word is written to CMD. -/
theorem stepRunsTheDecodedCommand : Obligations.StepRunsTheDecodedCommand := by
  refine ⟨fun s rest v i hbusy hd => step_cmd_ok rest hbusy hd, fun s w i hbusy hd => step_cmd_ok s.agenda hbusy ?_,
    fun s rest v hbusy => step_cmd_busy rest v hbusy⟩
  rw [decodeTableWord, if_pos le_rfl] at hd
  cases hdec : decode (BitVec.ofNat 32 (w % 2 ^ 32)) with
  | error e => rw [hdec] at hd; cases hd
  | ok j => rw [hdec] at hd; cases hd; rfl

/-- INIT and BLOCK have one word each: any other word with their OP has a bit set in a field that must be 0
(30_encoding.md R64). -/
theorem decode_reservedBits_of_ne {v : Word} {k : Nat} (hk : k = 1 ∨ k = 2) (hop : opOf v = k)
    (hv : v ≠ BitVec.ofNat 32 k) : decode v = .error .reservedBits := by
  have hne : v.toNat ≠ k := fun h => hv (by rw [← h, BitVec.ofNat_toNat, BitVec.setWidth_eq])
  refine decode_reservedBits (by omega) ?_
  simp only [opOf, rsv0Of, rsv1Of, nbytesOf] at hop ⊢
  omega

/-- A word with OP 2 or 3 that passes the checks of its fields is a BLOCK or a FINAL, which meet the checks of the state
(30_encoding.md R64, 43_commands.md R126). -/
theorem decode_issuesPending {v : Word} (hop : 2 ≤ opOf v ∧ opOf v ≤ 3) (h0 : rsv0Of v = 0) (h1 : rsv1Of v = 0)
    (hn : opOf v = 2 → nbytesOf v = 0) : ∃ i op n, decode v = .ok i ∧ ∀ s, exec i s = issuePending op n s := by
  rw [decodeFollowsItsChecks.1 v, if_neg (by omega), if_neg (by omega), if_neg (by omega), if_neg (by omega)]
  by_cases hblock : opOf v = 2
  · exact ⟨.block, .block, 0, by rw [if_pos hblock], exec_block⟩
  · have hlt : nbytesOf v < 64 := Nat.mod_lt _ (by decide)
    exact ⟨.final (nbytesOf v), .final, ⟨nbytesOf v, hlt⟩, by rw [if_neg hblock], exec_final ⟨nbytesOf v, hlt⟩⟩

/-- Settles O33: BUSY, the decoder's checks, and the phase, each with the code it records. -/
theorem commandChecksInOrder : Obligations.CommandChecksInOrder := by
  refine fun s rest v => ⟨step_cmd_busy rest v, fun hbusy hop => ?illegal, fun hbusy hop hrsv => ?reserved,
    fun hbusy hop h0 h1 hn => ?pending, fun hbusy hv => ?init⟩
  case illegal => exact step_cmd_error rest hbusy (decode_illegalOpcode (by omega))
  case reserved => exact step_cmd_error rest hbusy (decode_reservedBits hop hrsv)
  case pending =>
    obtain ⟨i, op, n, hd, hexec⟩ := decode_issuesPending hop h0 h1 hn
    rw [step_cmd_ok rest hbusy hd, hexec]
    refine ⟨fun hphase => ?_, fun hphase => ?_⟩
    · rw [issuePending_done op n { s with agenda := rest } hbusy hphase]
      rfl
    · exact ⟨_, issuePending_absorb op n { s with agenda := rest } hbusy hphase, rfl, rfl, rfl⟩
  case init =>
    rw [step_cmd_ok rest hbusy (i := .init) (by rw [hv]; decide), exec_init, execInit_idle { s with agenda := rest } hbusy]
    exact ⟨_, rfl, rfl, rfl⟩

/-! ### INIT (R130) -/

/-- Settles O28: INIT is `startHash`, which sets its fields to constants, so a second one changes nothing. -/
theorem initStartsHash : Obligations.InitStartsHash := by
  refine ⟨fun s hbusy => ⟨execInit_idle s hbusy, fun t ht => ?_⟩, execInit_busy, by decide,
    fun _ => decode_reservedBits_of_ne (.inl rfl)⟩
  rw [exec_init, execInit_idle s hbusy] at ht
  cases ht
  exact ⟨execInit_idle _ hbusy, by simp [CoreState.status, CoreState.doneBit, hbusy]⟩

/-! ### BLOCK and FINAL (R128, R131 to R133) -/

/-- Settles O29: `accept` writes PENDING and BUSY only. -/
theorem acceptanceOnlyPends : Obligations.AcceptanceOnlyPends :=
  fun s hbusy hphase => ⟨issuePending_absorb .block 0 s hbusy hphase,
    fun n => (exec_final n s).trans (issuePending_absorb .final n s hbusy hphase)⟩

/-- Settles O35, by the cases of what `exec` can do: record an error, start a hash, or accept. -/
theorem commandFrame : Obligations.CommandFrame := by
  intro i s t hexec
  cases exec_next hexec with
  | busy _ ht | sequence _ _ _ ht =>
    subst ht
    exact ⟨rfl, rfl, rfl, rfl, rfl, fun _ => ⟨rfl, rfl, rfl, rfl⟩, fun _ => ⟨rfl, rfl⟩⟩
  | init _ hi ht =>
    subst ht
    exact ⟨rfl, rfl, rfl, rfl, rfl, fun hne => absurd hi hne, fun _ => ⟨rfl, rfl⟩⟩
  | block _ hi _ ht | final _ _ hi _ ht =>
    subst ht hi
    exact ⟨rfl, rfl, rfl, rfl, rfl, fun _ => ⟨rfl, rfl, rfl, rfl⟩, nofun⟩

/-- The core's next step after an acceptance completes the command; nothing else of the machine has changed. -/
theorem step_accepted {s : State} {op : Op} {n : Fin 64} {rest : List Event}
    (hu : (s.mapCore (CoreState.accept op n)).upcoming = some (.core, rest)) :
    step (s.mapCore (CoreState.accept op n)) = .next { s with agenda := rest, core := (s.core.accept op n).turn } :=
  step_core hu

/-- The example of 43_commands.md R131, evaluated. -/
theorem compress_countingBlock : compress initialDigest countingBlock =
    #v[0xFC99A2DF, 0x88F42A7A, 0x7BB9D180, 0x33CDC6A2, 0x0256755F, 0x9D5B9A50, 0x44A9CC31, 0x5ABE84A7] := by
  decide +kernel

/-- Settles O30: the completion is `completeBlock`, on the bytes of DATA as numbers. -/
theorem blockAbsorbsTheBuffer : Obligations.BlockAbsorbsTheBuffer := by
  refine ⟨fun s hbusy hphase => ⟨_, issuePending_absorb .block 0 s hbusy hphase, rfl,
      fun rest hu => ⟨_, step_accepted hu, ?_⟩⟩,
    issuePending_busy .block 0, issuePending_done .block 0, by decide, fun _ => decode_reservedBits_of_ne (.inr rfl),
    compress_countingBlock⟩
  refine ⟨turn_block_h rfl rfl, ?_⟩
  rw [turn_block _ 0 rfl rfl]
  exact ⟨BitVec.toNat_add _ _, BitVec.toNat_add _ _, rfl⟩

/-- The effect of FINAL n leaves DATA, ERR and ERRCODE alone, and BUSY and PENDING to the retirement (R132, R133). -/
theorem completeFinal_frame (n : Fin 64) (c : CoreState) :
    let c' := c.completeFinal n
    c' = { c with h := c'.h, wv := c'.wv, w := c'.w, len := c'.len, blkcnt := c'.blkcnt, phase := .done, pad := [] } := by
  simp [CoreState.completeFinal]

/-- Settles O31: the completion is PADFINAL, whose effect is O23's; the "abc" block is that of 41_block_pipeline.md R100. -/
theorem finalPadsAndFinishes : Obligations.FinalPadsAndFinishes := by
  refine ⟨fun s n hbusy hphase => ⟨_, (exec_final n s).trans (issuePending_absorb .final n s hbusy hphase), rfl,
      fun rest hu => ⟨_, step_accepted hu, ?_⟩⟩,
    fun s n hbusy => (exec_final n s).trans (issuePending_busy .final n s hbusy),
    fun s n hbusy hphase => (exec_final n s).trans (issuePending_done .final n s hbusy hphase), by decide,
    fun _ hop hrsv => decode_reservedBits (by omega) (hrsv.imp_right .inl), ?_⟩
  · obtain ⟨hh, hcnt, -, -⟩ := padFinalEffect (s.core.accept .final n) n n.isLt
    have hlen := (CoreState.padFinal_len n (s.core.accept .final n)).trans (lenAfter_eq_ofNat _ _)
    rw [← hlen] at hh
    rw [turn_final _ n rfl rfl]
    exact ⟨hlen, hh, hcnt, congrArg (fun c => { s with agenda := rest, core := c.retire }) (completeFinal_frame n _)⟩
  · rw [show finalBlocks [0x61, 0x62, 0x63] 24 = [abcBlock] by decide]
    exact abcBlockCompresses.2

/-! ### Progress (R134) -/

/-- Settles O37, by induction on the number of events: each step with BUSY = 1 clears it or uses up an event. -/
theorem commandCompletes : Obligations.CommandCompletes := by
  intro s hbusy
  induction hlen : s.agenda.length using Nat.strong_induction_on generalizing s with
  | _ m ih =>
    obtain ⟨u, hstep⟩ := admittedEventsNeverStop s (.inl hbusy)
    have hone : Reaches 1 s u := reaches_succ hstep (reaches_zero u)
    cases step_busy hstep hbusy with
    | core _ hu => exact ⟨1, u, by omega, hone, by rw [hu, turn_busy]⟩
    | reset _ hu => exact ⟨1, u, by omega, hone, by rw [hu, CoreState.reset_busy]⟩
    | host a rest hup hu =>
      obtain ⟨_, htakes⟩ := step_takes hstep
      rw [hup] at htakes
      cases htakes
      have hshort : u.agenda.length < s.agenda.length := (upcoming_length hup).resolve_left nofun
      obtain ⟨k, t, hk, hrun, ht⟩ := ih u.agenda.length (by omega) u (by rw [hu]; exact hbusy) rfl
      exact ⟨k + 1, t, by omega, reaches_succ hstep hrun, ht⟩

end Sys2Proof.Machine
end

section
/-! PROOF. The host's accesses: what each read returns, the STATUS word, writes to DATA and ignored writes, and the digest as
bytes and text (44_bus_access.md R146 to R155). -/

namespace Sys2Proof.Machine

/-! ### Reads (R146, R149) -/

/-- The hazard registers by offset. -/
theorem busyHazard_iff {off : Nat} :
    busyHazard off = true ↔ off = 0x08 ∨ off = 0x0C ∨ off = 0x10 ∨ (0x20 ≤ off ∧ off < 0x40) := by
  have hdigest : (digestIndex off).isSome = true ↔ 0x20 ≤ off ∧ off < 0x40 := by
    by_cases h : 0x20 ≤ off ∧ off < 0x40 <;> simp [digestIndex, h]
  simp only [busyHazard, Bool.or_eq_true, decide_eq_true_eq, hdigest, or_assoc]

theorem readRegister_status (c : CoreState) : c.readRegister 0x04 = c.status := rfl

theorem readRegister_lenLo (c : CoreState) : c.readRegister 0x08 = BitVec.ofNat 32 c.len.toNat := rfl

theorem readRegister_lenHi (c : CoreState) : c.readRegister 0x0C = BitVec.ofNat 32 (c.len.toNat / 2 ^ 32) :=
  congrArg (BitVec.ofNat 32) (Nat.shiftRight_eq_div_pow _ _)

theorem readRegister_blkcnt (c : CoreState) : c.readRegister 0x10 = c.blkcnt := rfl

section
variable {s : State} (rest : List Event) {off : Nat} {v : Word}

/-- A read of a specified value, as a step: the register's word is returned and the block is left alone. -/
theorem step_rd_specified (hoff : off % 4 = 0 ∧ off < 256) (hspecified : s.core.busy = false ∨ busyHazard off = false)
    (hv : s.core.readRegister off = v) :
    step { s with agenda := rd off :: rest } = .next { s with agenda := rest, reads := v :: s.reads } := by
  obtain ⟨u, hstep, hu⟩ := reaches_succ_iff.1 (runs_rd hoff hspecified rest)
  rw [← hv]
  exact hstep.trans hu

/-- A read outside the hazard registers needs no BUSY = 0. -/
theorem step_rd_always (hoff : off % 4 = 0 ∧ off < 256) (hclear : off < 0x08 ∨ (0x14 ≤ off ∧ off < 0x20) ∨ 0x40 ≤ off)
    (hv : s.core.readRegister off = v) :
    step { s with agenda := rd off :: rest } = .next { s with agenda := rest, reads := v :: s.reads } :=
  step_rd_specified rest hoff (.inr (Bool.eq_false_iff.2 (mt busyHazard_iff.1 (by omega)))) hv

end

theorem step_rd_status (s : State) (rest : List Event) :
    step { s with agenda := rd 0x04 :: rest } = .next { s with agenda := rest, reads := s.core.status :: s.reads } :=
  step_rd_always rest (by decide) (by decide) (readRegister_status s.core)

/-- Settles O38: each offset's register; only LEN, BLKCNT and DIGEST need BUSY = 0. -/
theorem readsReturnTheRegisters : Obligations.ReadsReturnTheRegisters := by
  intro s rest answers
  refine ⟨?cmd, step_rd_status s rest, fun off hgap => ?gap, fun off hlow hhigh halign => ?reserved, fun j => ?data,
    fun hidle => ⟨?lenLo, ?lenHi, ?blkcnt, fun i => ?digest⟩⟩
  case cmd => exact step_rd_always rest (by decide) (by decide) (readRegister_zero s.core 0x00 (by decide))
  case gap => exact step_rd_always rest (by omega) (by omega) (readRegister_zero s.core off (by omega))
  case reserved => exact step_rd_always rest (by omega) (by omega) (readRegister_zero s.core off (by omega))
  case data => exact step_rd_always rest (by omega) (by omega) (readRegister_data s.core j)
  case lenLo => exact step_rd_specified rest (by decide) (.inl hidle) (readRegister_lenLo s.core)
  case lenHi => exact step_rd_specified rest (by decide) (.inl hidle) (readRegister_lenHi s.core)
  case blkcnt => exact step_rd_specified rest (by decide) (.inl hidle) (readRegister_blkcnt s.core)
  case digest => exact step_rd_specified rest (by omega) (.inl hidle) (readRegister_digest s.core i)

/-- Settles O40: each offset listed is a hazard register's. -/
theorem busyReadsAreFree : Obligations.BusyReadsAreFree := by
  intro s rest off hbusy hoff
  have hregister : off % 4 = 0 ∧ (off = 0x08 ∨ off = 0x0C ∨ off = 0x10 ∨ (0x20 ≤ off ∧ off < 0x40)) := by
    obtain rfl | rfl | rfl | ⟨i, rfl⟩ := hoff <;> omega
  obtain ⟨halign, hhazard⟩ := hregister
  rw [step_rd s rest off halign (by omega), busRead_busy off { s with agenda := rest } hbusy (busyHazard_iff.2 hhazard)]
  rfl

/-! ### The STATUS word (R147) -/

theorem doneBit_toNat (c : CoreState) : c.doneBit.toNat = if c.phase = .done then 1 else 0 := by
  rw [CoreState.doneBit]
  cases c.phase <;> rfl

/-- STATUS as a number: its fields do not overlap, so their union is their sum. -/
theorem status_toNat (c : CoreState) : c.status.toNat =
    16 * c.errcode.toNat + 4 * c.err.toNat + 2 * (if c.phase = .done then 1 else 0) + c.busy.toNat := by
  have hcode : c.errcode.toNat < 16 := c.errcode.isLt
  have herr := Bool.toNat_lt c.err
  have hdone := Bool.toNat_lt c.doneBit
  have hbusy := Bool.toNat_lt c.busy
  have hunion : c.status.toNat =
      2 ^ 4 * c.errcode.toNat ||| (2 ^ 2 * c.err.toNat ||| (2 ^ 1 * c.doneBit.toNat ||| c.busy.toNat)) := by
    simp (disch := omega) [CoreState.status, Nat.shiftLeft_eq, Nat.or_assoc, Nat.mod_eq_of_lt, Nat.mul_comm]
  rw [hunion, ← Nat.two_pow_add_eq_or_of_lt (i := 1) hbusy, ← Nat.two_pow_add_eq_or_of_lt (i := 2) (by omega),
    ← Nat.two_pow_add_eq_or_of_lt (i := 4) (by omega), doneBit_toNat]
  omega

/-- ERRCODE begins at bit 4, and the flags below it end at bit 2. -/
theorem exists_status_toNat_eq (c : CoreState) : ∃ flags < 8, c.status.toNat = 16 * c.errcode.toNat + flags := by
  have herr := Bool.toNat_lt c.err
  have hbusy := Bool.toNat_lt c.busy
  refine ⟨_, ?_, (status_toNat c).trans (by rw [Nat.add_assoc, Nat.add_assoc])⟩
  split <;> omega

/-- Settles O39: the reserved bits and the examples are read off the number. -/
theorem statusWord : Obligations.StatusWord := by
  refine ⟨status_toNat, step_rd_status, fun c => ?reserved, ?_, ?_, ?_, ?_⟩
  case reserved =>
    obtain ⟨flags, hflags, hnumber⟩ := exists_status_toNat_eq c
    have hcode : c.errcode.toNat < 16 := c.errcode.isLt
    refine ⟨?_, fun i hi => Nat.testBit_lt_two_pow ?_⟩
    · rw [BitVec.getLsbD, Nat.testBit_eq_decide_div_mod_eq, decide_eq_false_iff_not]
      omega
    · calc c.status.toNat < 2 ^ 8 := by omega
        _ ≤ 2 ^ i := Nat.pow_le_pow_right (by decide) hi
  all_goals
    intro c herr hcode hphase hbusy
    exact BitVec.eq_of_toNat_eq (by simp [status_toNat, herr, hcode, hphase, hbusy])

/-! ### Writes (R150, R152) -/

/-- The bytes of DATA after one of its words is set. -/
theorem dataByte_set (data : Vector Word 16) {j : Nat} (hj : j < 16) (v : Word) (k : Nat) :
    dataByte (data.set j v) k = if k / 4 = j then wordByte v (k % 4) else dataByte data k := by
  rw [dataByte, ← setIfInBounds_eq_set data v hj, Vector_getD_setIfInBounds _ _ _ _ hj]
  split <;> rfl

/-- The first four bytes of DATA are those of DATA[0]. -/
theorem dataBytes_set_zero (data : Vector Word 16) (v : Word) : dataBytes (data.set 0 v) 4 = wordBytes v := by
  have hbyte : ∀ k ∈ List.range 4, dataByte (data.set 0 v) k = wordByte v k := fun k hk => by
    have hk4 : k < 4 := List.mem_range.1 hk
    rw [dataByte_set data (by decide), if_pos (by omega), Nat.mod_eq_of_lt hk4]
  exact List.map_congr_left hbyte

/-- Settles O41: a rejected write records code 5; `setData` sets one word of DATA, and its bytes are the four of that word. -/
theorem dataWrites : Obligations.DataWrites := by
  refine ⟨fun s rest j v => ⟨fun hbusy => ?busy, fun hidle => ⟨_, ?idle, rfl, fun k _ => ?bytes⟩⟩, fun d => ?abc⟩
  case busy =>
    rw [step_data, writeData_busy j v { s with agenda := rest } hbusy]
    rfl
  case idle =>
    rw [step_data, writeData_idle j v { s with agenda := rest } hidle, State.mapCore, CoreState.setData,
      setIfInBounds_eq_set _ v j.isLt]
  case bytes => rw [dataByte_set s.core.data j.isLt, wordByte_eq_ofNat]
  case abc =>
    rw [dataBytes_set_zero]
    decide

theorem busWrite_ignored {off : Nat} (v : Word) (s : State) (hcmd : off ≠ 0x00) (hdata : off < 0x40 ∨ 0x80 ≤ off) :
    s.busWrite off v = .next s := by
  have hnone : dataIndex off = none := if_neg (by omega)
  rw [State.busWrite, if_neg hcmd, hnone]

/-- Settles O42: each offset listed is neither CMD's nor a DATA register's. -/
theorem otherWritesIgnored : Obligations.OtherWritesIgnored := by
  intro s rest off v halign hoff
  rw [step_wr s rest off v halign (by omega)]
  exact busWrite_ignored v _ (by omega) (by omega)

/-! ### The digest as bytes and as text (R154, R155) -/

/-- Where each element gives `n` entries, entry `k` of element `i` stands at place `n * i + k`. -/
theorem flatMap_getD {α β : Type} {f : α → List β} {n : Nat} (hf : ∀ x, (f x).length = n) (l : List α) {i k : Nat} (d : β)
    (hi : i < l.length) (hk : k < n) : (l.flatMap f).getD (n * i + k) d = (f l[i]).getD k d := by
  induction l generalizing i with
  | nil => cases hi
  | cons x l ih =>
    rw [List.flatMap_cons]
    cases i with
    | zero => rw [Nat.mul_zero, Nat.zero_add, List.getD_append _ _ _ _ (by rwa [hf]), List.getElem_cons_zero]
    | succ i =>
      rw [Nat.mul_succ, List.getD_append_right _ _ _ _ (by rw [hf]; omega), hf, List.getElem_cons_succ,
        show n * i + n + k - n = n * i + k by omega, ih]

theorem wordBytes_getD (v : Word) {k : Nat} (hk : k < 4) : (wordBytes v).getD k 0 = wordByte v k := by
  match k, hk with
  | 0, _ | 1, _ | 2, _ | 3, _ => rfl

theorem hex8_length (v : Word) : (hex8 v).length = 8 := by simp [hex8]

theorem digitChar_eq_getD : ∀ n, n < 16 → Nat.digitChar n = "0123456789abcdef".toList.getD n ' ' := by decide

/-- A digit of a word is a quotient of the word's number. -/
theorem hex8_getD (v : Word) {k : Nat} (hk : k < 8) :
    (hex8 v).getD k ' ' = "0123456789abcdef".toList.getD (v.toNat / 2 ^ (4 * (7 - k)) % 16) ' ' := by
  rw [← digitChar_eq_getD _ (Nat.mod_lt _ (by decide)), ← show 28 - 4 * k = 4 * (7 - k) by omega]
  simp [hex8, hk, Nat.shiftRight_eq_div_pow]

/-- Settles O57: each word gives 4 bytes and 8 digits, so an entry of the whole is an entry of its word. -/
theorem digestRendering : Obligations.DigestRendering := by
  refine ⟨fun h => ⟨?_, ?_, fun i k => ?byte⟩, fun h i k => ?digit, by decide⟩
  · simp [digestBytes, wordBytes]
  · simp [renderDigest, hex8_length]
  case byte =>
    rw [digestBytes, flatMap_getD (n := 4) (fun _ => rfl) _ _ (by simp) k.isLt, wordBytes_getD _ k.isLt, wordByte_eq_ofNat]
    exact BitVec.toNat_ofNat _ _
  case digit =>
    rw [renderDigest, flatMap_getD hex8_length _ _ (by simp) k.isLt]
    exact hex8_getD _ k.isLt

end Sys2Proof.Machine
end

section
/-! PROOF. The error registers: which steps write ERR and ERRCODE, and the idle block (60_exceptions.md R161 to R174). -/

open Sys2Proof.Claims

namespace Sys2Proof.Machine

/-! ### The recorded codes (R161) -/

theorem ErrorCause.one_le_code (e : ErrorCause) : 1 ≤ e.code.toNat :=
  Nat.pos_of_ne_zero fun h => e.code_ne_zero (BitVec.eq_of_toNat_eq h)

/-- Only a write to another register than CMD is rejected with BUSY_DATA. -/
theorem RejectCase.code_eq_five_iff {s : State} {a : Access} {v : Word} {e : ErrorCause} (h : RejectCase s a v e) :
    e.code = 5 ↔ a.off ≠ 0 := by
  cases h with
  | busyData j _ hj =>
    obtain ⟨hlow, -, -⟩ := dataIndex_eq_some.1 hj
    exact iff_of_true rfl (by omega)
  | busyCmd _ hoff | sequence _ _ hoff _ _ _ => exact iff_of_false (by decide) (not_not_intro hoff)
  | illegal e _ hoff _ => exact iff_of_false (by cases e <;> decide) (not_not_intro hoff)

theorem recordError_of_no_error {c : CoreState} (h : c.err = false) (e : ErrorCause) :
    c.recordError e = { c with err := true, errcode := e.code } := by simp [CoreState.recordError, h]

/-! ### The steps that clear the errors (R165) -/

theorem step_of_initNext {s : State} (h : InitNext s) :
    ∃ rest, step s = .next (({ s with agenda := rest } : State).mapCore CoreState.startHash) := by
  obtain ⟨⟨rest, ha⟩, hbusy⟩ := h
  have hstep := step_cmd_ok rest hbusy (show decode 0x00000001 = .ok .init by decide)
  rw [← ha, exec_init, execInit_idle { s with agenda := rest } hbusy] at hstep
  exact ⟨rest, hstep⟩

theorem errors_cleared {s t : State} (hstep : step s = .next t) (h : InitNext s ∨ ResetNext s) :
    t.core.err = false ∧ t.core.errcode = 0 := by
  obtain hinit | ⟨rest, hreset⟩ := h
  · obtain ⟨rest, hnext⟩ := step_of_initNext hinit
    cases hnext.symm.trans hstep
    exact ⟨rfl, rfl⟩
  · cases (step_upcoming hreset).symm.trans hstep
    exact ⟨rfl, rfl⟩

/-- A write the decoder reads as INIT, with BUSY = 0, is an accepted INIT. -/
theorem initNext_of_write {s : State} {a : Access} {v : Word} {rest : List Event} (ha : s.agenda = .access a :: rest)
    (hadm : a.admitted = true) (hop : a.op = .write v) (hoff : a.off = 0x00) (hd : decode v = .ok .init)
    (hbusy : s.core.busy = false) : InitNext s :=
  ⟨⟨rest, by rw [ha, (admitted_write hadm hop).1, hoff, eq_one_of_decode_init hd]⟩, hbusy⟩

/-! ### What any step does to the error registers -/

/-- No command's completion records or clears an error (43_commands.md R131 to R133). -/
theorem turn_errors (c : CoreState) : c.turn.err = c.err ∧ c.turn.errcode = c.errcode := by
  unfold CoreState.turn CoreState.complete
  split
  · split <;> simp
  · exact ⟨rfl, rfl⟩

/-- What a step has done to ERR and ERRCODE. -/
inductive ErrorStep (s t : State) : Prop where
  /-- INIT was accepted or the reset was asserted. -/
  | cleared (h : InitNext s ∨ ResetNext s)
  /-- A write of the host was rejected. -/
  | recorded (a : Access) (v : Word) (rest : List Event) (e : ErrorCause) (ha : s.agenda = .access a :: rest)
      (hop : a.op = .write v) (hr : RejectCase s a v e) (ht : t = ({ s with agenda := rest } : State).reject e)
  /-- Any other event. -/
  | kept (herr : t.core.err = s.core.err) (hcode : t.core.errcode = s.core.errcode)

theorem step_errors {s t : State} (hstep : step s = .next t) : ErrorStep s t := by
  cases step_next hstep with
  | core _ _ ht => subst ht; exact .kept (turn_errors s.core).1 (turn_errors s.core).2
  | reset rest hu _ => exact .cleared (.inr ⟨rest, hu⟩)
  | init _ _ _ ha hadm hop hoff hd hbusy _ => exact .cleared (.inl (initNext_of_write ha hadm hop hoff hd hbusy))
  | rejected a v rest e ha _ hop hr ht => exact .recorded a v rest e ha hop hr ht
  | read _ _ _ _ _ ht => subst ht; exact .kept (by simp) (by simp)
  | elsewhere _ _ _ _ ht | accepted _ _ _ _ _ _ _ _ _ _ _ _ ht | data _ _ _ _ _ _ _ _ _ ht
  | ignored _ _ _ _ _ _ _ _ ht => subst ht; exact .kept rfl rfl

/-! ### The obligations -/

/-- Settles O48: INIT and reset clear both registers, and a further rejection keeps the first code. -/
theorem onlyInitAndResetClearErrors : Obligations.OnlyInitAndResetClearErrors := by
  intro s t hstep herr
  by_cases hclear : InitNext s ∨ ResetNext s
  · exact .inr ⟨hclear, errors_cleared hstep hclear⟩
  · refine .inl ?_
    obtain ⟨hinit, hreset⟩ := not_or.1 hclear
    cases step_errors hstep with
    | cleared h => exact absurd h hclear
    | recorded _ _ _ _ _ _ _ ht => subst ht; exact ⟨rfl, by simp [herr], hinit, hreset⟩
    | kept hkept hcode => exact ⟨hkept.trans herr, hcode, hinit, hreset⟩

/-- Settles O49: only a rejected write sets ERR, and its cause gives the code. -/
theorem errorsArePrecise : Obligations.ErrorsArePrecise := by
  intro s t hstep hclear hset
  cases step_errors hstep with
  | cleared h => simp [(errors_cleared hstep h).1] at hset
  | kept hkept _ => simp [hkept, hclear] at hset
  | recorded a v rest e ha hop hr ht =>
    have hrecord := recordError_of_no_error hclear e
    subst ht
    have hcode : (s.core.recordError e).errcode = e.code := by rw [hrecord]
    refine ⟨a, v, rest, ha, hop, ?frame, ?_⟩
    case frame => rw [State.reject, State.mapCore, hrecord]
    simp only [State.reject_core, hcode]
    exact ⟨e.one_le_code, e.code_le_five, hr.code_eq_five_iff⟩

/-- Settles O36: the core's turn is the next event, and passes with BUSY = 0. -/
theorem idleBlockHolds : Obligations.IdleBlockHolds := by
  refine fun s hidle => ⟨fun rest => ?turn, fun hsilent => ?silent⟩
  case turn => rw [step_core (upcoming_event rfl rfl), turn_idle s.core hidle]
  case silent => rw [step_core (upcoming_silent hsilent), turn_idle s.core hidle, ← hsilent]

end Sys2Proof.Machine
end

section
/-! PROOF. Reset and the sequence hazard: what a finished hash and a fresh reset leave in the block (70_reset_and_hazards.md
R181, R182, R188). -/

open Sys2Proof.Claims

namespace Sys2Proof.Machine

/-! ### A finished hash (R188) -/

/-- A command in flight holds the block in phase ABSORB, so a finished block has none. -/
theorem CoreState.Inv.idle_of_done {c : CoreState} (h : c.Inv) (hphase : c.phase = .done) : c.busy = false := by
  cases hbusy : c.busy with
  | false => rfl
  | true => rw [h.busy_absorb hbusy] at hphase; cases hphase

/-- Settles O53, by the cases of what a step can do: a finished block has no command in flight for the core to complete and
accepts none, so only an accepted INIT and the reset write the fields named. -/
theorem digestKeptUntilInit : Obligations.DigestKeptUntilInit := by
  refine ⟨fun s hbusy hphase => ⟨issuePending_done .block 0 s hbusy hphase,
    fun n => (exec_final n s).trans (issuePending_done .final n s hbusy hphase)⟩, fun s t hinv hphase hstep => ?_⟩
  have hidle : s.core.busy = false := CoreState.Inv.idle_of_done hinv hphase
  cases step_next hstep with
  | core _ _ ht => subst ht; exact .inl (by simp [turn_idle s.core hidle, hphase])
  | reset rest hu _ => exact .inr (.inr ⟨rest, hu⟩)
  | init _ _ _ ha hadm hop hoff hd hbusy _ => exact .inr (.inl (initNext_of_write ha hadm hop hoff hd hbusy))
  | accepted _ _ _ _ _ _ _ _ _ _ habsorb _ _ => rw [hphase] at habsorb; cases habsorb
  | read _ _ _ _ _ ht => subst ht; exact .inl (by simp [hphase])
  | elsewhere _ _ _ _ ht | rejected _ _ _ _ _ _ _ _ ht | data _ _ _ _ _ _ _ _ _ ht | ignored _ _ _ _ _ _ _ _ ht =>
    subst ht; exact .inl ⟨hphase, rfl, rfl, rfl⟩

/-! ### The block after reset (R181) -/

section
variable {c : CoreState} (h : AfterReset c)
include h

/-- The state after reset is the one an INIT would leave, so an INIT leaves it as it is. -/
theorem AfterReset.startHash_eq : c.startHash = c := by
  rw [h]
  rfl

theorem AfterReset.readRegister_control {off : Nat} (halign : off % 4 = 0) (hoff : off < 0x20 ∨ 0x80 ≤ off) :
    c.readRegister off = 0 := by
  have hlen : c.len = 0 := congrArg CoreState.len h
  have hcases : off = 0x04 ∨ off = 0x08 ∨ off = 0x0C ∨ off = 0x10 ∨
      (off < 4 ∨ (0x14 ≤ off ∧ off < 0x20) ∨ 0x80 ≤ off) := by omega
  obtain rfl | rfl | rfl | rfl | hzero := hcases
  · rw [readRegister_status, h]
    simp [CoreState.status, CoreState.doneBit]
  · rw [readRegister_lenLo, hlen]
    decide
  · rw [readRegister_lenHi, hlen]
    decide
  · rw [readRegister_blkcnt, h]
  · exact readRegister_zero c off hzero

theorem AfterReset.readRegister_digest (i : Fin 8) : c.readRegister (0x20 + 4 * i) = initialDigest[i] :=
  (Machine.readRegister_digest c i).trans (congrArg (fun c => c.h[i]) h)

end

theorem exec_init_of_afterReset {s : State} (h : AfterReset s.core) : exec .init s = .next s := by
  have hidle : s.core.busy = false := congrArg CoreState.busy h
  rw [exec_init, execInit_idle s hidle, State.mapCore, AfterReset.startHash_eq h]

/-- Settles O54: the reset event asserts the reset whatever the block was doing, and the table then gives INIT's effect and
each register. -/
theorem resetSetsTheWholeState : Obligations.ResetSetsTheWholeState :=
  ⟨fun s rest => ⟨_, step_event s .reset rest rfl, rfl, rfl, CoreState.reset_afterReset s.draws,
      exec_init_of_afterReset (CoreState.reset_afterReset s.draws)⟩,
    CoreState.reset_afterReset 0,
    fun c h => ⟨fun _ halign hoff => AfterReset.readRegister_control h halign hoff, AfterReset.readRegister_digest h,
      readRegister_data c⟩⟩

end Sys2Proof.Machine
end

section
/-! PROOF. The decoder and the encoder are inverse to each other (30_encoding.md R61 to R64), and the words that
95_test_vectors.md T-DEC writes out. -/

namespace Sys2Proof.Machine

/-- Settles O1: encoding a well-formed command sets each field to what the decoder reads, and the decoder's checks leave no
bit of a word free but those its command gives. -/
theorem encodeAndDecodeAgree : Obligations.EncodeAndDecodeAgree :=
  ⟨fun _ hi => decode_encode hi, fun _ _ hd => decode_eq_ok_iff.1 hd⟩

/-- Settles O4: five of the words are those of well-formed commands, two have a reserved bit set and one has OP 7. -/
theorem knownWordsDecode : Obligations.KnownWordsDecode := by
  refine ⟨?init, ?block, ?final0, ?final56, ?final63, ?rsv0, ?rsv1, ?opcode⟩
  case init | block | final0 | final56 | final63 => exact decode_eq_ok_iff.2 (by decide)
  case rsv0 => exact decode_reservedBits (by decide) (.inl (by decide))
  case rsv1 => exact decode_reservedBits (by decide) (.inr (.inl (by decide)))
  case opcode => exact decode_illegalOpcode (.inr (by decide))

end Sys2Proof.Machine
end
